-- ==== Sys2Proof/Word.lean ====
section
/-! DEFINITION. The word types of WRAMP: the 32-bit word, which is the unit of registers, memory and instructions
(spec/00_scope.md R6), the 20-bit address (R6) and the 4-bit register number (spec/30_encoding.md R92). -/

namespace Sys2Proof

/-- A 32-bit word (spec/00_scope.md R6, R8). -/
abbrev Word := BitVec 32

/-- A 20-bit address of one word (spec/20_memory.md R60). -/
abbrev Addr := BitVec 20

/-- A 4-bit register number: a general register, or in `movgs` and `movsg` a special one (spec/30_encoding.md R102). -/
abbrev RegNum := BitVec 4

/-- One of the four bytes the model keeps a word of memory in; the hardware has no bytes (spec/20_memory.md R61, [log 1]). -/
abbrev Byte := BitVec 8

end Sys2Proof
end

