-- ==== Sys2Proof/Syntax.lean ====
section
/-! DEFINITION. The syntax of WRAMP: the nine named special registers and the 71 instructions, one constructor for each
row of spec/opcode_table.json (spec/30_encoding.md R96 to R99). Operand fields are bit vectors of exactly the width the
encoding gives them (R92), so that every term has an encoding. -/

namespace Sys2Proof

/-- The nine named special registers (spec/10_state.md R32). -/
inductive Spr where
  | cctrl | estat | icount | ccount | evec | ear | ers | ptable | rbase
  deriving DecidableEq, Repr

/-- The machine instructions of WRAMP. `brk` is the instruction `break`, whose name is a word of Lean's own. In `movgs`
the first operand and in `movsg` the second is a special register number (spec/30_encoding.md R102). -/
inductive Instr where
  /-- `add`: Addition (R131). -/
  | add (rd rs rt : RegNum)
  /-- `addi`: Addition, immediate (R132). -/
  | addi (rd rs : RegNum) (imm : BitVec 16)
  /-- `addu`: Addition, unsigned (R133). -/
  | addu (rd rs rt : RegNum)
  /-- `addui`: Addition, unsigned, immediate (R134). -/
  | addui (rd rs : RegNum) (imm : BitVec 16)
  /-- `sub`: Subtraction (R135). -/
  | sub (rd rs rt : RegNum)
  /-- `subi`: Subtraction, immediate (R136). -/
  | subi (rd rs : RegNum) (imm : BitVec 16)
  /-- `subu`: Subtraction, unsigned (R137). -/
  | subu (rd rs rt : RegNum)
  /-- `subui`: Subtraction, unsigned, immediate (R138). -/
  | subui (rd rs : RegNum) (imm : BitVec 16)
  /-- `mult`: Multiplication (R139). -/
  | mult (rd rs rt : RegNum)
  /-- `multi`: Multiplication, immediate (R140). -/
  | multi (rd rs : RegNum) (imm : BitVec 16)
  /-- `multu`: Multiplication, unsigned (R141). -/
  | multu (rd rs rt : RegNum)
  /-- `multui`: Multiplication, unsigned, immediate (R142). -/
  | multui (rd rs : RegNum) (imm : BitVec 16)
  /-- `div`: Division (R143). -/
  | div (rd rs rt : RegNum)
  /-- `divi`: Division, immediate (R144). -/
  | divi (rd rs : RegNum) (imm : BitVec 16)
  /-- `divu`: Division, unsigned (R145). -/
  | divu (rd rs rt : RegNum)
  /-- `divui`: Division, unsigned, immediate (R146). -/
  | divui (rd rs : RegNum) (imm : BitVec 16)
  /-- `rem`: Remainder (R147). -/
  | rem (rd rs rt : RegNum)
  /-- `remi`: Remainder, immediate (R148). -/
  | remi (rd rs : RegNum) (imm : BitVec 16)
  /-- `remu`: Remainder, unsigned (R149). -/
  | remu (rd rs rt : RegNum)
  /-- `remui`: Remainder, unsigned, immediate (R150). -/
  | remui (rd rs : RegNum) (imm : BitVec 16)
  /-- `lhi`: Load high immediate (R151). -/
  | lhi (rd : RegNum) (imm : BitVec 16)
  /-- `la`: Load address (R152). -/
  | la (rd : RegNum) (addr : Addr)
  /-- `and`: And (R161). -/
  | and (rd rs rt : RegNum)
  /-- `andi`: And, immediate (R162). -/
  | andi (rd rs : RegNum) (imm : BitVec 16)
  /-- `or`: Or (R163). -/
  | or (rd rs rt : RegNum)
  /-- `ori`: Or, immediate (R164). -/
  | ori (rd rs : RegNum) (imm : BitVec 16)
  /-- `xor`: Xor (R165). -/
  | xor (rd rs rt : RegNum)
  /-- `xori`: Xor, immediate (R166). -/
  | xori (rd rs : RegNum) (imm : BitVec 16)
  /-- `sll`: Shift left logical (R167). -/
  | sll (rd rs rt : RegNum)
  /-- `slli`: Shift left logical, immediate (R168). -/
  | slli (rd rs : RegNum) (imm : BitVec 16)
  /-- `srl`: Shift right logical (R169). -/
  | srl (rd rs rt : RegNum)
  /-- `srli`: Shift right logical, immediate (R170). -/
  | srli (rd rs : RegNum) (imm : BitVec 16)
  /-- `sra`: Shift right arithmetic (R171). -/
  | sra (rd rs rt : RegNum)
  /-- `srai`: Shift right arithmetic, immediate (R172). -/
  | srai (rd rs : RegNum) (imm : BitVec 16)
  /-- `slt`: Set on less than (R181). -/
  | slt (rd rs rt : RegNum)
  /-- `slti`: Set on less than immediate (R182). -/
  | slti (rd rs : RegNum) (imm : BitVec 16)
  /-- `sltu`: Set on less than, unsigned (R183). -/
  | sltu (rd rs rt : RegNum)
  /-- `sltui`: Set on less than, unsigned, immediate (R184). -/
  | sltui (rd rs : RegNum) (imm : BitVec 16)
  /-- `sgt`: Set on greater than (R185). -/
  | sgt (rd rs rt : RegNum)
  /-- `sgti`: Set on greater than, immediate (R186). -/
  | sgti (rd rs : RegNum) (imm : BitVec 16)
  /-- `sgtu`: Set on greater than, unsigned (R187). -/
  | sgtu (rd rs rt : RegNum)
  /-- `sgtui`: Set on greater than, unsigned, immediate (R188). -/
  | sgtui (rd rs : RegNum) (imm : BitVec 16)
  /-- `sle`: Set on less than or equal to (R189). -/
  | sle (rd rs rt : RegNum)
  /-- `slei`: Set on less than or equal to, immediate (R190). -/
  | slei (rd rs : RegNum) (imm : BitVec 16)
  /-- `sleu`: Set on less than or equal to, unsigned (R191). -/
  | sleu (rd rs rt : RegNum)
  /-- `sleui`: Set on less than or equal to, unsigned, immediate (R192). -/
  | sleui (rd rs : RegNum) (imm : BitVec 16)
  /-- `sge`: Set on greater than or equal to (R193). -/
  | sge (rd rs rt : RegNum)
  /-- `sgei`: Set on greater than or equal to immediate (R194). -/
  | sgei (rd rs : RegNum) (imm : BitVec 16)
  /-- `sgeu`: Set on greater than or equal to, unsigned (R195). -/
  | sgeu (rd rs rt : RegNum)
  /-- `sgeui`: Set on greater than or equal to, unsigned, immediate (R196). -/
  | sgeui (rd rs : RegNum) (imm : BitVec 16)
  /-- `seq`: Set on equal to (R197). -/
  | seq (rd rs rt : RegNum)
  /-- `seqi`: Set on equal to immediate (R198). -/
  | seqi (rd rs : RegNum) (imm : BitVec 16)
  /-- `sequ`: Set on equal to, unsigned (R199). -/
  | sequ (rd rs rt : RegNum)
  /-- `sequi`: Set on equal to, unsigned, immediate (R200). -/
  | sequi (rd rs : RegNum) (imm : BitVec 16)
  /-- `sne`: Set on not equal to (R201). -/
  | sne (rd rs rt : RegNum)
  /-- `snei`: Set on not equal to immediate (R202). -/
  | snei (rd rs : RegNum) (imm : BitVec 16)
  /-- `sneu`: Set on not equal to, unsigned (R203). -/
  | sneu (rd rs rt : RegNum)
  /-- `sneui`: Set on not equal to, unsigned, immediate (R204). -/
  | sneui (rd rs : RegNum) (imm : BitVec 16)
  /-- `j`: Jump (R211). -/
  | j (addr : Addr)
  /-- `jr`: Jump to register (R212). -/
  | jr (rs : RegNum)
  /-- `jal`: Jump and link (R213). -/
  | jal (addr : Addr)
  /-- `jalr`: Jump and link register (R214). -/
  | jalr (rs : RegNum)
  /-- `beqz`: Branch on equal to zero (R215). -/
  | beqz (rs : RegNum) (offset : BitVec 20)
  /-- `bnez`: Branch on not equal to zero (R216). -/
  | bnez (rs : RegNum) (offset : BitVec 20)
  /-- `lw`: Load word (R231). -/
  | lw (rd rs : RegNum) (offset : BitVec 20)
  /-- `sw`: Store word (R232). -/
  | sw (rd rs : RegNum) (offset : BitVec 20)
  /-- `movgs`: Move general register to special register (R241). -/
  | movgs (sd rs : RegNum)
  /-- `movsg`: Move special register to general register (R242). -/
  | movsg (rd ss : RegNum)
  /-- `break`: Break (R243). -/
  | brk
  /-- `syscall`: System call (R244). -/
  | syscall
  /-- `rfe`: Return from exception (R245). -/
  | rfe
  deriving DecidableEq, Repr

end Sys2Proof
end

