-- ==== Sys2Proof/Decode.lean ====
section
/-! DEFINITION. Decoding and encoding (spec/30_encoding.md): the fields of a word (R92), the decode procedure R108, total
on every 32-bit word, and after it the encoder, written from the format rows R93 to R95 and the opcode maps R96 to R99. -/

namespace Sys2Proof

/-- What a word decodes to (spec/30_encoding.md R108). -/
inductive Decoded where
  /-- An instruction of the list. -/
  | instr (i : Instr)
  /-- An unassigned word, which raises the General Protection Fault (R104, R105). -/
  | unassigned
  /-- An assigned instruction with a 1 in a field printed as zeros, which has no meaning (R106). -/
  | reserved
  deriving DecidableEq, Repr

/-! The fields of a word (spec/30_encoding.md R92). -/

def opOf (w : Word) : BitVec 4 := w.extractLsb' 28 4
def rdOf (w : Word) : RegNum := w.extractLsb' 24 4
def rsOf (w : Word) : RegNum := w.extractLsb' 20 4
def funcOf (w : Word) : BitVec 4 := w.extractLsb' 16 4
def zeroOf (w : Word) : BitVec 12 := w.extractLsb' 4 12
def rtOf (w : Word) : RegNum := w.extractLsb' 0 4
def immOf (w : Word) : BitVec 16 := w.extractLsb' 0 16
def addrOf (w : Word) : Addr := w.extractLsb' 0 20

/-- Register forms of arithmetic, bitwise and shift, by `Func` (spec/30_encoding.md R97). -/
def decodeAluR (func : Nat) (rd rs rt : RegNum) : Instr :=
  match func with
  | 0 => .add rd rs rt
  | 1 => .addu rd rs rt
  | 2 => .sub rd rs rt
  | 3 => .subu rd rs rt
  | 4 => .mult rd rs rt
  | 5 => .multu rd rs rt
  | 6 => .div rd rs rt
  | 7 => .divu rd rs rt
  | 8 => .rem rd rs rt
  | 9 => .remu rd rs rt
  | 10 => .sll rd rs rt
  | 11 => .and rd rs rt
  | 12 => .srl rd rs rt
  | 13 => .or rd rs rt
  | 14 => .sra rd rs rt
  | _ => .xor rd rs rt

/-- Immediate forms of arithmetic, bitwise and shift, by `Func` (spec/30_encoding.md R97). -/
def decodeAluI (func : Nat) (rd rs : RegNum) (imm : BitVec 16) : Instr :=
  match func with
  | 0 => .addi rd rs imm
  | 1 => .addui rd rs imm
  | 2 => .subi rd rs imm
  | 3 => .subui rd rs imm
  | 4 => .multi rd rs imm
  | 5 => .multui rd rs imm
  | 6 => .divi rd rs imm
  | 7 => .divui rd rs imm
  | 8 => .remi rd rs imm
  | 9 => .remui rd rs imm
  | 10 => .slli rd rs imm
  | 11 => .andi rd rs imm
  | 12 => .srli rd rs imm
  | 13 => .ori rd rs imm
  | 14 => .srai rd rs imm
  | _ => .xori rd rs imm

/-- Register forms of the test instructions, `Func` 0 to 11 (spec/30_encoding.md R98). -/
def decodeTestR (func : Nat) (rd rs rt : RegNum) : Instr :=
  match func with
  | 0 => .slt rd rs rt
  | 1 => .sltu rd rs rt
  | 2 => .sgt rd rs rt
  | 3 => .sgtu rd rs rt
  | 4 => .sle rd rs rt
  | 5 => .sleu rd rs rt
  | 6 => .sge rd rs rt
  | 7 => .sgeu rd rs rt
  | 8 => .seq rd rs rt
  | 9 => .sequ rd rs rt
  | 10 => .sne rd rs rt
  | _ => .sneu rd rs rt

/-- Immediate forms of the test instructions, `Func` 0 to 11 (spec/30_encoding.md R99). -/
def decodeTestI (func : Nat) (rd rs : RegNum) (imm : BitVec 16) : Instr :=
  match func with
  | 0 => .slti rd rs imm
  | 1 => .sltui rd rs imm
  | 2 => .sgti rd rs imm
  | 3 => .sgtui rd rs imm
  | 4 => .slei rd rs imm
  | 5 => .sleui rd rs imm
  | 6 => .sgei rd rs imm
  | 7 => .sgeui rd rs imm
  | 8 => .seqi rd rs imm
  | 9 => .sequi rd rs imm
  | 10 => .snei rd rs imm
  | _ => .sneui rd rs imm

/-- `i` where the fields that must be zero are zero, else reserved (spec/30_encoding.md R103, R106). -/
def whenZero (zero : Bool) (i : Instr) : Decoded := if zero then .instr i else .reserved

/-- Decoding under opcode 0010 (spec/30_encoding.md R98). -/
def decodeOp2 (w : Word) : Decoded :=
  let alone := rdOf w == 0 && rsOf w == 0 && immOf w == 0
  match (funcOf w).toNat with
  | 12 => whenZero alone .brk
  | 13 => whenZero alone .syscall
  | 14 => whenZero alone .rfe
  | 15 => .unassigned
  | func => whenZero (zeroOf w == 0) (decodeTestR func (rdOf w) (rsOf w) (rtOf w))

/-- Decoding under opcode 0011 (spec/30_encoding.md R99). -/
def decodeOp3 (w : Word) : Decoded :=
  match (funcOf w).toNat with
  | 12 => whenZero (immOf w == 0) (.movgs (rdOf w) (rsOf w))
  | 13 => whenZero (immOf w == 0) (.movsg (rdOf w) (rsOf w))
  | 14 => whenZero (rsOf w == 0) (.lhi (rdOf w) (immOf w))
  | 15 => .unassigned
  | func => .instr (decodeTestI func (rdOf w) (rsOf w) (immOf w))

/-- The decode procedure (spec/30_encoding.md R96, R103, R108). -/
def decode (w : Word) : Decoded :=
  match (opOf w).toNat with
  | 0 => whenZero (zeroOf w == 0) (decodeAluR (funcOf w).toNat (rdOf w) (rsOf w) (rtOf w))
  | 1 => .instr (decodeAluI (funcOf w).toNat (rdOf w) (rsOf w) (immOf w))
  | 2 => decodeOp2 w
  | 3 => decodeOp3 w
  | 4 => whenZero (rdOf w == 0 && rsOf w == 0) (.j (addrOf w))
  | 5 => whenZero (rdOf w == 0 && addrOf w == 0) (.jr (rsOf w))
  | 6 => whenZero (rdOf w == 0 && rsOf w == 0) (.jal (addrOf w))
  | 7 => whenZero (rdOf w == 0 && addrOf w == 0) (.jalr (rsOf w))
  | 8 => .instr (.lw (rdOf w) (rsOf w) (addrOf w))
  | 9 => .instr (.sw (rdOf w) (rsOf w) (addrOf w))
  | 10 => whenZero (rdOf w == 0) (.beqz (rsOf w) (addrOf w))
  | 11 => whenZero (rdOf w == 0) (.bnez (rsOf w) (addrOf w))
  | 12 => whenZero (rsOf w == 0) (.la (rdOf w) (addrOf w))
  | _ => .unassigned

/-- The R-Type word (spec/30_encoding.md R93). -/
def rType (op : BitVec 4) (rd rs : RegNum) (func : BitVec 4) (rt : RegNum) : Word :=
  op ++ rd ++ rs ++ func ++ 0#12 ++ rt

/-- The I-Type word (spec/30_encoding.md R94). -/
def iType (op : BitVec 4) (rd rs : RegNum) (func : BitVec 4) (imm : BitVec 16) : Word :=
  op ++ rd ++ rs ++ func ++ imm

/-- The J-Type word (spec/30_encoding.md R95). -/
def jType (op : BitVec 4) (rd rs : RegNum) (addr : Addr) : Word :=
  op ++ rd ++ rs ++ addr

/-- The word of an instruction (spec/30_encoding.md R93 to R103; each row as its own rule prints it). -/
def encode : Instr → Word
  | .add rd rs rt => rType 0x0 rd rs 0x0 rt
  | .addi rd rs imm => iType 0x1 rd rs 0x0 imm
  | .addu rd rs rt => rType 0x0 rd rs 0x1 rt
  | .addui rd rs imm => iType 0x1 rd rs 0x1 imm
  | .sub rd rs rt => rType 0x0 rd rs 0x2 rt
  | .subi rd rs imm => iType 0x1 rd rs 0x2 imm
  | .subu rd rs rt => rType 0x0 rd rs 0x3 rt
  | .subui rd rs imm => iType 0x1 rd rs 0x3 imm
  | .mult rd rs rt => rType 0x0 rd rs 0x4 rt
  | .multi rd rs imm => iType 0x1 rd rs 0x4 imm
  | .multu rd rs rt => rType 0x0 rd rs 0x5 rt
  | .multui rd rs imm => iType 0x1 rd rs 0x5 imm
  | .div rd rs rt => rType 0x0 rd rs 0x6 rt
  | .divi rd rs imm => iType 0x1 rd rs 0x6 imm
  | .divu rd rs rt => rType 0x0 rd rs 0x7 rt
  | .divui rd rs imm => iType 0x1 rd rs 0x7 imm
  | .rem rd rs rt => rType 0x0 rd rs 0x8 rt
  | .remi rd rs imm => iType 0x1 rd rs 0x8 imm
  | .remu rd rs rt => rType 0x0 rd rs 0x9 rt
  | .remui rd rs imm => iType 0x1 rd rs 0x9 imm
  | .lhi rd imm => iType 0x3 rd 0 0xE imm
  | .la rd addr => jType 0xC rd 0 addr
  | .and rd rs rt => rType 0x0 rd rs 0xB rt
  | .andi rd rs imm => iType 0x1 rd rs 0xB imm
  | .or rd rs rt => rType 0x0 rd rs 0xD rt
  | .ori rd rs imm => iType 0x1 rd rs 0xD imm
  | .xor rd rs rt => rType 0x0 rd rs 0xF rt
  | .xori rd rs imm => iType 0x1 rd rs 0xF imm
  | .sll rd rs rt => rType 0x0 rd rs 0xA rt
  | .slli rd rs imm => iType 0x1 rd rs 0xA imm
  | .srl rd rs rt => rType 0x0 rd rs 0xC rt
  | .srli rd rs imm => iType 0x1 rd rs 0xC imm
  | .sra rd rs rt => rType 0x0 rd rs 0xE rt
  | .srai rd rs imm => iType 0x1 rd rs 0xE imm
  | .slt rd rs rt => rType 0x2 rd rs 0x0 rt
  | .slti rd rs imm => iType 0x3 rd rs 0x0 imm
  | .sltu rd rs rt => rType 0x2 rd rs 0x1 rt
  | .sltui rd rs imm => iType 0x3 rd rs 0x1 imm
  | .sgt rd rs rt => rType 0x2 rd rs 0x2 rt
  | .sgti rd rs imm => iType 0x3 rd rs 0x2 imm
  | .sgtu rd rs rt => rType 0x2 rd rs 0x3 rt
  | .sgtui rd rs imm => iType 0x3 rd rs 0x3 imm
  | .sle rd rs rt => rType 0x2 rd rs 0x4 rt
  | .slei rd rs imm => iType 0x3 rd rs 0x4 imm
  | .sleu rd rs rt => rType 0x2 rd rs 0x5 rt
  | .sleui rd rs imm => iType 0x3 rd rs 0x5 imm
  | .sge rd rs rt => rType 0x2 rd rs 0x6 rt
  | .sgei rd rs imm => iType 0x3 rd rs 0x6 imm
  | .sgeu rd rs rt => rType 0x2 rd rs 0x7 rt
  | .sgeui rd rs imm => iType 0x3 rd rs 0x7 imm
  | .seq rd rs rt => rType 0x2 rd rs 0x8 rt
  | .seqi rd rs imm => iType 0x3 rd rs 0x8 imm
  | .sequ rd rs rt => rType 0x2 rd rs 0x9 rt
  | .sequi rd rs imm => iType 0x3 rd rs 0x9 imm
  | .sne rd rs rt => rType 0x2 rd rs 0xA rt
  | .snei rd rs imm => iType 0x3 rd rs 0xA imm
  | .sneu rd rs rt => rType 0x2 rd rs 0xB rt
  | .sneui rd rs imm => iType 0x3 rd rs 0xB imm
  | .j addr => jType 0x4 0 0 addr
  | .jr rs => jType 0x5 0 rs 0
  | .jal addr => jType 0x6 0 0 addr
  | .jalr rs => jType 0x7 0 rs 0
  | .beqz rs offset => jType 0xA 0 rs offset
  | .bnez rs offset => jType 0xB 0 rs offset
  | .lw rd rs offset => jType 0x8 rd rs offset
  | .sw rd rs offset => jType 0x9 rd rs offset
  | .movgs sd rs => iType 0x3 sd rs 0xC 0
  | .movsg rd ss => iType 0x3 rd ss 0xD 0
  | .brk => rType 0x2 0 0 0xC 0
  | .syscall => rType 0x2 0 0 0xD 0
  | .rfe => rType 0x2 0 0 0xE 0

/-- The instruction of an opcode-table row's word: `nbits` bits of `w`, the rest zero. WRAMP's memory is of whole words,
so the word is given to the decoder as it is (spec/20_memory.md R61). -/
def decodeTableWord (nbits w : Nat) : Option Instr :=
  match decode (BitVec.ofNat 32 (w % 2 ^ nbits)) with
  | .instr i => some i
  | .unassigned => none
  | .reserved => none

end Sys2Proof
end

