-- ==== Sys2Proof/Config.lean ====
section
/-! DEFINITION. What the spec leaves free: the free values of the model, constants with no body, so that no proof can
see what they are. The parameters for which the spec gives a default value are in Sys2Proof/Machine/Params.lean. -/

namespace Sys2Proof

/-- Contents of the ROM, by offset from 0x80000: the spec's parameter `ROM`, "supplied by whoever instantiates the
model" (spec/00_scope.md R7, R5 (a)). [log 3] -/
opaque Config.rom : Nat → Word

/-- What a RAM word holds that nothing has written since reset, by the number of the reset and the word's address:
"any" (spec/10_state.md R53). [log 2] -/
opaque Config.ramAtReset : Nat → Nat → Word

/-- The stream of draws: the `n`-th free value of a run, under no law (spec/00_scope.md R13). [log 17] -/
opaque Config.freeWord : Nat → Word

/-- The spec's parameter `sdiv` where the source is silent: dividend negative or divisor negative
(spec/40_arithmetic.md R155, D11). [log 12] -/
opaque Config.signedQuotient : Word → Word → Word

/-- The spec's parameter `srem` where the source is silent: dividend negative or divisor negative
(spec/40_arithmetic.md R155, D11). [log 12] -/
opaque Config.signedRemainder : Word → Word → Word

end Sys2Proof
end

