-- ==== Sys2Proof/Machine/Flags.lean ====
section
/-! DEFINITION. WRAMP has no flags (spec/10_state.md R30). What other machines keep in flags is here: when a result does
not fit (spec/40_arithmetic.md R153, R154), when a divisor is zero (R155), and the result of a test
(spec/42_test.md R180, R206). `none` is the Arithmetic Exception. -/

namespace Sys2Proof.Machine

/-- A signed result, or overflow where it "will not fit in 32 bits" (spec/40_arithmetic.md R153). -/
def signedResult (r : Int) : Option Word :=
  if r < -2147483648 ∨ 2147483647 < r then none else some (BitVec.ofInt 32 r)

/-- An unsigned result, or overflow where it is negative or above 2^32 - 1 (spec/40_arithmetic.md R154). -/
def unsignedResult (r : Int) : Option Word :=
  if r < 0 ∨ 4294967295 < r then none else some (BitVec.ofInt 32 r)

/-- The signed quotient of a non-zero divisor: the spec's parameter `sdiv`, fixed where the dividend is not negative and
the divisor positive, else free (spec/40_arithmetic.md R155). [log 12] -/
def sdiv (a b : Word) : Word :=
  if 0 ≤ a.toInt ∧ 0 < b.toInt then BitVec.ofInt 32 (a.toInt / b.toInt) else Config.signedQuotient a b

/-- The signed remainder of a non-zero divisor: the spec's parameter `srem` (spec/40_arithmetic.md R155). [log 12] -/
def srem (a b : Word) : Word :=
  if 0 ≤ a.toInt ∧ 0 < b.toInt then BitVec.ofInt 32 (a.toInt % b.toInt) else Config.signedRemainder a b

def signedSum (a b : Word) : Option Word := signedResult (a.toInt + b.toInt)
def signedDifference (a b : Word) : Option Word := signedResult (a.toInt - b.toInt)
def signedProduct (a b : Word) : Option Word := signedResult (a.toInt * b.toInt)
def unsignedSum (a b : Word) : Option Word := unsignedResult ((a.toNat : Int) + b.toNat)
def unsignedDifference (a b : Word) : Option Word := unsignedResult ((a.toNat : Int) - b.toNat)
def unsignedProduct (a b : Word) : Option Word := unsignedResult ((a.toNat : Int) * b.toNat)

/-- Signed division raises on a zero divisor only (spec/40_arithmetic.md R143, R155). -/
def signedQuotient (a b : Word) : Option Word := if b = 0 then none else some (sdiv a b)
def signedRemainder (a b : Word) : Option Word := if b = 0 then none else some (srem a b)

/-- Unsigned division: the floor of the quotient, and what is left (spec/40_arithmetic.md R145, R149, R155). -/
def unsignedQuotient (a b : Word) : Option Word := if b = 0 then none else some (BitVec.ofNat 32 (a.toNat / b.toNat))
def unsignedRemainder (a b : Word) : Option Word := if b = 0 then none else some (BitVec.ofNat 32 (a.toNat % b.toNat))

/-- The result of a test: the whole word 1 or 0 (spec/42_test.md R180, R206). -/
def testResult (passes : Bool) : Word := if passes then 1 else 0

/-! The six relations, on signed and on unsigned readings (spec/42_test.md R180). -/

def ltSigned (a b : Word) : Bool := decide (a.toInt < b.toInt)
def gtSigned (a b : Word) : Bool := decide (b.toInt < a.toInt)
def leSigned (a b : Word) : Bool := decide (a.toInt ≤ b.toInt)
def geSigned (a b : Word) : Bool := decide (b.toInt ≤ a.toInt)
def eqSigned (a b : Word) : Bool := decide (a.toInt = b.toInt)
def neSigned (a b : Word) : Bool := decide (a.toInt ≠ b.toInt)
def ltUnsigned (a b : Word) : Bool := decide (a.toNat < b.toNat)
def gtUnsigned (a b : Word) : Bool := decide (b.toNat < a.toNat)
def leUnsigned (a b : Word) : Bool := decide (a.toNat ≤ b.toNat)
def geUnsigned (a b : Word) : Bool := decide (b.toNat ≤ a.toNat)
def eqUnsigned (a b : Word) : Bool := decide (a.toNat = b.toNat)
def neUnsigned (a b : Word) : Bool := decide (a.toNat ≠ b.toNat)

end Sys2Proof.Machine
end

