-- ==== Sys2Proof/Machine/Operands.lean ====
section
/-! DEFINITION. The operand forms: the four uses of the 16-bit immediate (spec/30_encoding.md R100), the three uses of the
20-bit field (R101), the shift count, and the addresses a register gives. -/

namespace Sys2Proof.Machine

/-- A sign-extended immediate (spec/30_encoding.md R100 (a)). -/
def signImm (imm : BitVec 16) : Word := imm.signExtend 32

/-- A zero-extended immediate (spec/30_encoding.md R100 (b)). -/
def zeroImm (imm : BitVec 16) : Word := imm.setWidth 32

/-- The shift count of a second operand: its low five bits, unsigned (spec/41_bitwise.md R173). -/
def shiftCount (c : Word) : Nat := (c.extractLsb' 0 5).toNat

/-- The shift count of an immediate: its low five bits (spec/30_encoding.md R100 (c)). -/
def shiftCountImm (imm : BitVec 16) : Nat := (imm.extractLsb' 0 5).toNat

/-- The immediate of `lhi`, placed in bits 31:16 (spec/30_encoding.md R100 (d)). -/
def highImm (imm : BitVec 16) : Word := imm ++ 0#16

/-- The zero-extended 20-bit field of `la` (spec/30_encoding.md R101 (b)). -/
def addressValue (addr : Addr) : Word := addr.setWidth 32

/-- The effective address of `lw` and `sw`: the low 20 bits of the base plus the sign-extended offset
(spec/44_loadstore.md R233). -/
def effectiveAddress (base : Word) (offset : BitVec 20) : Addr := (base + offset.signExtend 32).setWidth 20

/-- The target of a taken branch at `pc` (spec/43_branch.md R215). -/
def branchTarget (pc : Addr) (offset : BitVec 20) : Addr := pc + 1 + offset

/-- The target a register gives: its low 20 bits (spec/43_branch.md R212). -/
def registerTarget (w : Word) : Addr := w.extractLsb' 0 20

/-- The link value of a jump at `pc`: the address after it, zero-extended (spec/43_branch.md R213). -/
def linkValue (pc : Addr) : Word := (pc + 1).setWidth 32

end Sys2Proof.Machine
end

