-- ==== Sys2Proof/Machine/Bits.lean ====
section
/-! DEFINITION. The bit-field helpers of the machine: writing one flag of a register, the value a narrow register gives
on a load, and the store to an acknowledge register. -/

namespace Sys2Proof.Machine

/-- `v` with bit `i` set to `b`. -/
def setFlag {n : Nat} (v : BitVec n) (i : Nat) (b : Bool) : BitVec n :=
  if b then v ||| (1#n <<< i) else v &&& ~~~(1#n <<< i)

/-- What a load of a register of `n` bits returns: the register in the low bits, free bits above it
(spec/20_memory.md R66; spec/60_exceptions.md R300). [log 20] -/
def loadNarrow {n : Nat} (v : BitVec n) (free : Word) : Word :=
  v.setWidth 32 ||| ((free >>> n) <<< n)

/-- A store of `new` to an interrupt acknowledge register that holds `old`: a 0 clears the bit, a 1 over a set bit leaves
it set, a 1 over a clear bit has no meaning (spec/60_exceptions.md R315, R326, R334). -/
def acknowledge {n : Nat} (old new : BitVec n) : Option (BitVec n) :=
  if new &&& ~~~old = 0 then some (old &&& new) else none

end Sys2Proof.Machine
end

