-- ==== Sys2Proof/Machine/Params.lean ====
section
/-! DEFINITION. The parameters the source does not fix (spec/00_scope.md R7; spec/60_exceptions.md R300). The machine takes
them as an argument, the field `params` of its state, and every statement over all states is over all their values; each
structure carries the constraints the spec puts on them. `Params.default` holds the spec's default values. [log 8] to
[log 10], [log 35] -/

namespace Sys2Proof.Machine

/-- `SPR_*`: the numbers of the nine named special registers (spec/10_state.md R32). [log 8] -/
structure SprNumbers where
  cctrl : RegNum
  estat : RegNum
  icount : RegNum
  ccount : RegNum
  evec : RegNum
  ear : RegNum
  ers : RegNum
  ptable : RegNum
  rbase : RegNum
  distinct : [cctrl, estat, icount, ccount, evec, ear, ers, ptable, rbase].Nodup
  deriving DecidableEq, Repr

/-- `CCTRL_*_BIT`: the positions of the four flags of `$cctrl`, in bits 3:0 (spec/10_state.md R33). [log 9] -/
structure CctrlLayout where
  oie : Fin 4
  ie : Fin 4
  oku : Fin 4
  ku : Fin 4
  distinct : [oie, ie, oku, ku].Nodup
  deriving DecidableEq, Repr

/-- Whether bits of the serial control register are among those that are 0 in the example value 0x0C5, which enables no
interrupt (spec/60_exceptions.md R313). -/
def clearInExample (bits : List (Fin 11)) : Bool := bits.all fun b => !(0x0C5#11).getLsbD b

/-- `SER_*`: the fields of a serial port's registers (spec/60_exceptions.md R313, R314, R315). Bits 0 and 1 of the status
register and bit 1 of the acknowledge register are stated, not parameters. [log 10] -/
structure SerialLayout where
  rxie : Fin 11
  txie : Fin 11
  errie : Fin 11
  enablesDistinct : [rxie, txie, errie].Nodup
  enablesClear : clearInExample [rxie, txie, errie] = true
  overrun : Fin 5
  parity : Fin 5
  frame : Fin 5
  statusDistinct : [0, 1, overrun, parity, frame].Nodup
  iackRx : Fin 3
  iackErr : Fin 3
  iackDistinct : [iackRx, 1, iackErr].Nodup
  deriving DecidableEq, Repr

/-- `PAR_*`: the fields of the parallel port's registers, and for each of the elements a to g and the decimal point of a
display the bit that lights it (spec/60_exceptions.md R323, R325, R326). [log 10] -/
structure ParallelLayout where
  hex : Fin 2
  ie : Fin 2
  controlDistinct : [hex, ie].Nodup
  iack : Fin 32
  segmentMap : Vector (Fin 8) 8
  segmentsDistinct : segmentMap.toList.Nodup
  deriving DecidableEq, Repr

/-- `TMR_*`: the fields of the timer's registers (spec/60_exceptions.md R331, R334). [log 10] -/
structure TimerLayout where
  enable : Fin 2
  auto : Fin 2
  controlDistinct : [enable, auto].Nodup
  pending : Fin 2
  overrun : Fin 2
  iackDistinct : [pending, overrun].Nodup
  deriving DecidableEq, Repr

/-- The parameters of the machine (spec/00_scope.md R7). `RESET_CCTRL` is given by what it leaves open: OIE, OKU and the
mask. `sdiv`, `srem`, `ROM` and `FAULT_RD` are in Config.lean, `LAUNCH_SP` in Safety.lean; `CYCLES` is the script's to
say, at least 1 for each step [log 29]. -/
structure Params where
  spr : SprNumbers
  cctrl : CctrlLayout
  serial : SerialLayout
  parallel : ParallelLayout
  timer : TimerLayout
  resetPc : Addr
  resetOie : Bool
  resetOku : Bool
  resetMask : BitVec 8
  deriving DecidableEq, Repr

/-- The spec's default values (spec/00_scope.md R7). PRESUMED where they come from general knowledge (G1, G2, G5 to G9).
[log 5], [log 7] to [log 10] -/
def Params.default : Params :=
  { spr := { cctrl := 4, estat := 5, icount := 6, ccount := 7, evec := 8, ear := 9, ers := 11, ptable := 12, rbase := 13
             distinct := by decide }
    cctrl := { oie := 0, ie := 1, oku := 2, ku := 3, distinct := by decide }
    serial :=
      { rxie := 8, txie := 9, errie := 10, enablesDistinct := by decide, enablesClear := by decide
        overrun := 2, parity := 3, frame := 4, statusDistinct := by decide
        iackRx := 0, iackErr := 2, iackDistinct := by decide }
    parallel :=
      { hex := 0, ie := 1, controlDistinct := by decide, iack := 0
        segmentMap := #v[0, 1, 2, 3, 4, 5, 6, 7], segmentsDistinct := by decide }
    timer :=
      { enable := 0, auto := 1, controlDistinct := by decide, pending := 0, overrun := 1, iackDistinct := by decide }
    resetPc := 0x80000
    resetOie := false
    resetOku := false
    resetMask := 0 }

/-- The prescaler counts down from 1302 (spec/60_exceptions.md R336). -/
def prescalerStart : BitVec 11 := 1302

/-- `$cctrl` with the given flags and mask (spec/10_state.md R33, R35). -/
def CctrlLayout.pack (l : CctrlLayout) (oie ie oku ku : Bool) (mask : BitVec 8) : BitVec 12 :=
  setFlag (setFlag (setFlag (setFlag (mask ++ 0#4) l.oie oie) l.ie ie) l.oku oku) l.ku ku

/-- The number of a named special register (spec/10_state.md R32). -/
def SprNumbers.number (p : SprNumbers) (r : Spr) : RegNum :=
  match r with
  | .cctrl => p.cctrl
  | .estat => p.estat
  | .icount => p.icount
  | .ccount => p.ccount
  | .evec => p.evec
  | .ear => p.ear
  | .ers => p.ers
  | .ptable => p.ptable
  | .rbase => p.rbase

/-- The special register a number names, if it names one (spec/10_state.md R32, R46). -/
def SprNumbers.named (p : SprNumbers) (n : RegNum) : Option Spr :=
  if n = p.cctrl then some .cctrl
  else if n = p.estat then some .estat
  else if n = p.icount then some .icount
  else if n = p.ccount then some .ccount
  else if n = p.evec then some .evec
  else if n = p.ear then some .ear
  else if n = p.ers then some .ers
  else if n = p.ptable then some .ptable
  else if n = p.rbase then some .rbase
  else none

end Sys2Proof.Machine
end

