-- ==== Sys2Proof/Machine/State.lean ====
section
/-! DEFINITION. The state of the machine (spec/10_state.md; INVENTORY.md lists every field with its rule and its reset
value), the reasons a step can stop, and the state after reset. -/

namespace Sys2Proof.Machine

/-! ## Names -/

/-- The four internal exceptions (spec/60_exceptions.md R260, R265). -/
inductive InternalCause where
  | arithmetic | breakpoint | syscall | generalProtection
  deriving DecidableEq, Repr

/-- The two serial ports (spec/60_exceptions.md R310). -/
inductive SerialPortId where
  | first | second
  deriving DecidableEq, Repr

/-! ## Devices -/

/-- One serial port (spec/60_exceptions.md R310 to R317). -/
structure SerialPort where
  /-- Transmit data register (R311). -/
  tdr : BitVec 8
  /-- Transmit Data Sent: the transmit data register is empty (R314). -/
  tds : Bool
  /-- Receive data register (R312). -/
  rdr : BitVec 8
  /-- Receive Data Ready (R314). -/
  ready : Bool
  /-- The error conditions the environment reports: overrun, parity, framing in bits 0, 1, 2; `none` where it reports
  none, and the status bits are then free (R314). -/
  errors : Option (BitVec 3)
  /-- Control register (R313). -/
  control : BitVec 11
  /-- The three pending bits of the interrupt acknowledge register (R315). -/
  pending : BitVec 3
  /-- The model's own field: the characters that have left the port, oldest first (R317). [log 23] -/
  sent : List (BitVec 8)
  deriving DecidableEq, Repr

/-- The parallel port (spec/60_exceptions.md R320 to R328). -/
structure ParallelPort where
  /-- The 16 switches (R321). -/
  switches : BitVec 16
  /-- The three push buttons (R322). -/
  buttons : BitVec 3
  /-- The four display registers (R323, R324). -/
  lowerLeft : BitVec 8
  lowerRight : BitVec 8
  upperLeft : BitVec 8
  upperRight : BitVec 8
  /-- Control register (R325). -/
  control : BitVec 2
  /-- The pending bit of the interrupt acknowledge register (R326). -/
  pending : Bool
  /-- The 16 LEDs (R327). -/
  leds : BitVec 16
  deriving DecidableEq, Repr

/-- The programmable timer (spec/60_exceptions.md R330 to R336). -/
structure Timer where
  /-- Control register: enable and automatic restart (R331). -/
  enable : Bool
  auto : Bool
  /-- Load register (R332). -/
  load : BitVec 16
  /-- Count register (R333). -/
  count : BitVec 16
  /-- Interrupt acknowledge register: pending and overrun (R334). -/
  pending : Bool
  overrun : Bool
  /-- The prescaler: a count down from 1302, and the clock signal it inverts (R336). -/
  prescaler : BitVec 11
  signal : Bool
  deriving DecidableEq, Repr

/-! ## The environment -/

/-- What can happen outside the CPU between two CPU steps (spec/60_exceptions.md R317, R328, R335, R336, R340;
spec/70_reset_and_hazards.md R350). [log 18] -/
inductive DeviceEvent where
  /-- A character arrives at a serial port (R317 (a)). -/
  | serialReceive (port : SerialPortId) (c : BitVec 8)
  /-- A serial port finishes transmitting (R317 (b)). -/
  | serialSent (port : SerialPortId)
  /-- The error conditions a serial port reports change; a report with a bit set is an error condition (R317 (c)). -/
  | serialErrors (port : SerialPortId) (errors : Option (BitVec 3))
  /-- The switches move (R328). -/
  | switches (v : BitVec 16)
  /-- The push buttons are pressed or released (R328). -/
  | buttons (v : BitVec 3)
  /-- CPU clock cycles pass, which drive the timer's prescaler (R336). -/
  | clock (cycles : Nat)
  /-- The user interrupt button is pressed (R340). -/
  | userButton
  /-- The RESET button is pressed (R350). -/
  | resetButton
  deriving DecidableEq, Repr

/-! ## Memory -/

/-- Memory as a list of (key, byte) cells. The word at address `a` is in the cells `4 * a` to `4 * a + 3`, its least
significant byte first; the hardware has no byte order and nothing can observe this one (spec/20_memory.md R61).
Canonical form: keys strictly rising. A key that is not listed has no value of its own. [log 1] -/
abbrev Memory := List Host.Cell

/-! ## The machine -/

/-- The whole state (spec/10_state.md; INVENTORY.md, State). -/
structure State where
  /-- The model's own field: the parameters of the machine, which nothing changes (spec/00_scope.md R7). [log 35] -/
  params : Params
  /-- General registers; the slot of `$0` is never read (R20, R21). -/
  regs : Vector Word 16
  /-- Program counter (R26). -/
  pc : Addr
  /-- `$cctrl`, bits 11:0 (R33 to R38). -/
  cctrl : BitVec 12
  /-- `$estat` (R39, R40). -/
  estat : Word
  /-- `$evec` (R41). -/
  evec : Word
  /-- `$ear` (R42). -/
  ear : Word
  /-- `$ers` (R43). -/
  ers : Word
  /-- `$icount` as last read (R44). [log 15] -/
  icount : Word
  /-- `$ccount` as last read (R45). [log 15] -/
  ccount : Word
  /-- `$ptable` (R47). -/
  ptable : Word
  /-- `$rbase` (R48). -/
  rbase : Word
  /-- RAM as written and ROM as placed (spec/20_memory.md R64, R65). -/
  mem : Memory
  /-- First serial port. -/
  serial1 : SerialPort
  /-- Second serial port. -/
  serial2 : SerialPort
  /-- Parallel port. -/
  parallel : ParallelPort
  /-- Programmable timer. -/
  timer : Timer
  /-- The pending bit of the user interrupt button (spec/60_exceptions.md R340). -/
  userPending : Bool
  /-- The model's own field: how many free values have been drawn. [log 17] -/
  draws : Nat
  /-- The model's own field: how many times RESET has been pressed. [log 2] [log 19] -/
  ramEpoch : Nat
  /-- The model's own field: the device events still to come, one list for each CPU step boundary. [log 18] -/
  script : List (List DeviceEvent)
  deriving DecidableEq, Repr

/-! ## Why a step can stop -/

/-- Why the machine can stop with a fault. Every fault the spec describes is an exception the machine takes; the one
fault here is the access the spec refuses because nothing is there. -/
inductive Fault where
  /-- A load, store or fetch at an address with no memory or device behind it (spec/20_memory.md R67). Raised by `lw`,
  `sw` and the fetch. Safe: the run stops. [log 27] -/
  | unassignedAddress (a : Addr)
  deriving DecidableEq, Repr

/-- Situations the spec gives no meaning ("refuse", spec/00_scope.md R13). All are safe: the run stops. [log 27] -/
inductive Refusal where
  /-- An instruction with no meaning yet; answered by `exec` only. -/
  | notModelled (mnemonic : String)
  /-- A 1 in a field printed as zeros (spec/30_encoding.md R106). Raised by the decode of a fetched word. -/
  | reservedEncoding (w : Word)
  /-- `jalr $ra` (spec/43_branch.md R214). Raised by `jalr`. -/
  | jumpAndLinkThroughLink
  /-- A special register number that names none (spec/10_state.md R46). Raised by `movgs`, `movsg` in kernel mode. -/
  | unnamedSpecialRegister (n : RegNum)
  /-- `movgs` to `$estat`, `$icount` or `$ccount` (spec/10_state.md R40, R44, R45). Raised by `movgs`. -/
  | unwritableSpecialRegister (r : Spr)
  /-- `movgs` of a non-zero value to `$rbase` (spec/10_state.md R48). Raised by `movgs`. -/
  | nonZeroUserBase (v : Word)
  /-- The protection table does not lie in RAM or ROM (spec/20_memory.md R74). Raised by user-mode accesses. -/
  | protectionTableOutsideMemory
  /-- A store to ROM (spec/20_memory.md R65). Raised by `sw`. -/
  | storeToRom (a : Addr)
  /-- A load from a write-only device register (spec/20_memory.md R67). Raised by `lw` and the fetch. -/
  | loadFromWriteOnly
  /-- A store to a read-only device register (spec/20_memory.md R67). Raised by `sw`. -/
  | storeToReadOnly
  /-- A store to a serial transmit data register that is full (spec/60_exceptions.md R311). Raised by `sw`. -/
  | transmitWhileFull
  /-- A 1 written over a clear bit of an acknowledge register (spec/60_exceptions.md R315, R326, R334). Raised by
  `sw`. -/
  | acknowledgeOfClearBit
  /-- The timer enabled with a load value of 0 (spec/60_exceptions.md R335). Raised by `sw`. -/
  | timerEnabledWithZeroLoad
  /-- A load from the user interrupt acknowledge address (spec/60_exceptions.md R340). Raised by `lw` and the fetch. -/
  | loadFromUserAcknowledge
  /-- A non-zero store to the user interrupt acknowledge address (spec/60_exceptions.md R340). Raised by `sw`. -/
  | nonZeroUserAcknowledge (v : Word)
  deriving DecidableEq, Repr

/-- What one step answers. -/
abbrev Result := Host.Outcome State Fault Refusal

/-! ## Reset (spec/10_state.md R53) -/

/-- A serial port after reset: interrupts disabled as stated, an empty transmit register, the rest named by [log 11]. -/
def SerialPort.reset : SerialPort :=
  { tdr := 0, tds := true, rdr := 0, ready := false, errors := none, control := 0, pending := 0, sent := [] }

/-- The parallel port after reset: hexadecimal decode enabled as stated, the rest named by [log 11]. -/
def ParallelPort.reset (l : ParallelLayout) : ParallelPort :=
  { switches := 0, buttons := 0, lowerLeft := 0, lowerRight := 0, upperLeft := 0, upperRight := 0,
    control := setFlag 0 l.hex true, pending := false, leds := 0 }

/-- The timer after reset, every value named by [log 11]. -/
def Timer.reset : Timer :=
  { enable := false, auto := false, load := 0, count := 0, pending := false, overrun := false,
    prescaler := prescalerStart, signal := false }

/-- The machine with parameters `p` right after reset: `pc` at `RESET_PC`, kernel mode, interrupts disabled, `$rbase` and
both counters 0 (spec/10_state.md R53, spec/70_reset_and_hazards.md R351); every other value is named by the log.
[log 4] to [log 7], [log 11] -/
def State.resetWith (p : Params) : State :=
  { params := p, regs := Vector.replicate 16 0, pc := p.resetPc,
    cctrl := p.cctrl.pack p.resetOie false p.resetOku true p.resetMask,
    estat := 0, evec := 0, ear := 0, ers := 0, icount := 0, ccount := 0, ptable := 0, rbase := 0,
    mem := [], serial1 := .reset, serial2 := .reset, parallel := .reset p.parallel, timer := .reset,
    userPending := false, draws := 0, ramEpoch := 0, script := [] }

/-- The machine right after reset, with the spec's default parameters (spec/00_scope.md R7; spec/10_state.md R53). -/
def State.reset : State := State.resetWith Params.default

end Sys2Proof.Machine
end

