-- ==== Sys2Proof/Machine/Devices.lean ====
section
/-! DEFINITION. The device registers: which address is which register (spec/20_memory.md R63), what a load of a register
returns and does to its device, what a store does (spec/60_exceptions.md R300 to R340), and the interrupt line each
device drives. A load takes a free word, for the bits the spec leaves open. -/

namespace Sys2Proof.Machine

/-! ## The address map -/

/-- The registers of a serial port (spec/60_exceptions.md R310). -/
inductive SerialReg where
  | transmit | receive | control | status | acknowledge
  deriving DecidableEq, Repr

/-- The registers of the parallel port (spec/60_exceptions.md R320). -/
inductive ParallelReg where
  | switches | buttons | lowerLeft | lowerRight | control | acknowledge | upperLeft | upperRight | leds
  deriving DecidableEq, Repr

/-- The registers of the timer (spec/60_exceptions.md R330). -/
inductive TimerReg where
  | control | load | count | acknowledge
  deriving DecidableEq, Repr

/-- What stands at an address (spec/20_memory.md R63). -/
inductive Region where
  | ram
  | rom
  | serial (port : SerialPortId) (reg : SerialReg)
  | timer (reg : TimerReg)
  | parallel (reg : ParallelReg)
  | userAcknowledge
  | unassigned
  deriving DecidableEq, Repr

/-- Offsets of the serial registers (spec/60_exceptions.md R310). -/
def serialRegAt (offset : Nat) : Option SerialReg :=
  match offset with
  | 0 => some .transmit
  | 1 => some .receive
  | 2 => some .control
  | 3 => some .status
  | 4 => some .acknowledge
  | _ => none

/-- Offsets of the parallel registers; 8 and 9 are second addresses of 2 and 3 (spec/60_exceptions.md R320). -/
def parallelRegAt (offset : Nat) : Option ParallelReg :=
  match offset with
  | 0 => some .switches
  | 1 => some .buttons
  | 2 => some .lowerLeft
  | 3 => some .lowerRight
  | 4 => some .control
  | 5 => some .acknowledge
  | 6 => some .upperLeft
  | 7 => some .upperRight
  | 8 => some .lowerLeft
  | 9 => some .lowerRight
  | 10 => some .leds
  | _ => none

/-- Offsets of the timer registers (spec/60_exceptions.md R330). -/
def timerRegAt (offset : Nat) : Option TimerReg :=
  match offset with
  | 0 => some .control
  | 1 => some .load
  | 2 => some .count
  | 3 => some .acknowledge
  | _ => none

/-- The address map (spec/20_memory.md R63). -/
def regionOf (a : Addr) : Region :=
  let n := a.toNat
  if n < 0x4000 then .ram
  else if 0x80000 ≤ n ∧ n < 0x88000 then .rom
  else if n = 0x7F000 then .userAcknowledge
  else match n / 0x1000 with
    | 0x70 => ((serialRegAt (n % 0x1000)).map (Region.serial .first)).getD .unassigned
    | 0x71 => ((serialRegAt (n % 0x1000)).map (Region.serial .second)).getD .unassigned
    | 0x72 => ((timerRegAt (n % 0x1000)).map Region.timer).getD .unassigned
    | 0x73 => ((parallelRegAt (n % 0x1000)).map Region.parallel).getD .unassigned
    | _ => .unassigned

/-! ## Serial ports -/

/-- The status register: ready, transmit data sent, and the three error bits, free where the environment reports none
(spec/60_exceptions.md R314). [log 21] -/
def SerialPort.status (p : SerialPort) (l : SerialLayout) (free : Word) : BitVec 5 :=
  let errors := p.errors.getD (free.extractLsb' 0 3)
  let v := setFlag (0#5) 0 p.ready
  let v := setFlag v 1 p.tds
  let v := setFlag v l.overrun (errors.getLsbD 0)
  let v := setFlag v l.parity (errors.getLsbD 1)
  setFlag v l.frame (errors.getLsbD 2)

/-- A load of a serial register (spec/60_exceptions.md R310 to R315). -/
def SerialPort.loadReg (p : SerialPort) (l : SerialLayout) (r : SerialReg) (free : Word) :
    Except Refusal (Word × SerialPort) :=
  match r with
  | .transmit => .error .loadFromWriteOnly
  | .receive => .ok (if p.ready then loadNarrow p.rdr free else free, { p with ready := false })
  | .control => .ok (loadNarrow p.control free, p)
  | .status => .ok (loadNarrow (p.status l free) free, p)
  | .acknowledge => .ok (loadNarrow p.pending free, p)

/-- Whether an error condition may hold: it does where one is reported, and is unknown where nothing is
(spec/60_exceptions.md R314, R316). [log 22] -/
def SerialPort.errorMayHold (p : SerialPort) : Bool :=
  match p.errors with
  | some e => e != 0
  | none => true

/-- A store to the serial control register. Where it turns on an enable bit whose condition already holds, the pending bit
afterwards is free; no other pending bit changes (spec/60_exceptions.md R313, R316). [log 22] -/
def SerialPort.storeControl (p : SerialPort) (l : SerialLayout) (new : BitVec 11) (free : Word) : SerialPort :=
  let mark (enableBit : Fin 11) (pendingBit : Fin 3) (holds : Bool) (v : BitVec 3) : BitVec 3 :=
    if new.getLsbD enableBit && !p.control.getLsbD enableBit && holds then
      setFlag v pendingBit (free.getLsbD pendingBit)
    else v
  { p with
    control := new
    pending := mark l.errie l.iackErr p.errorMayHold (mark l.txie 1 p.tds (mark l.rxie l.iackRx p.ready p.pending)) }

/-- A store to a serial register (spec/60_exceptions.md R310 to R315). -/
def SerialPort.storeReg (p : SerialPort) (l : SerialLayout) (r : SerialReg) (v free : Word) : Except Refusal SerialPort :=
  match r with
  | .transmit => if p.tds then .ok { p with tdr := v.setWidth 8, tds := false } else .error .transmitWhileFull
  | .receive => .error .storeToReadOnly
  | .control => .ok (p.storeControl l (v.setWidth 11) free)
  | .status => .error .storeToReadOnly
  | .acknowledge =>
    match acknowledge p.pending (v.setWidth 3) with
    | some pending => .ok { p with pending := pending }
    | none => .error .acknowledgeOfClearBit

/-- An event of the port sets a pending bit where its enable bit is 1 (spec/60_exceptions.md R316). -/
def SerialPort.signalEvent (p : SerialPort) (enableBit : Fin 11) (pendingBit : Fin 3) : SerialPort :=
  if p.control.getLsbD enableBit then { p with pending := setFlag p.pending pendingBit true } else p

/-- A character arrives (spec/60_exceptions.md R317 (a)). -/
def SerialPort.arrive (p : SerialPort) (l : SerialLayout) (c : BitVec 8) : SerialPort :=
  SerialPort.signalEvent { p with rdr := c, ready := true } l.rxie l.iackRx

/-- The port finishes transmitting, which it can only while a character is in the transmit register
(spec/60_exceptions.md R317 (b)). -/
def SerialPort.finish (p : SerialPort) (l : SerialLayout) : SerialPort :=
  if p.tds then p
  else SerialPort.signalEvent { p with tds := true, sent := p.sent ++ [p.tdr] } l.txie 1

/-- The reported error conditions become `e`; a report of an error is the error event (spec/60_exceptions.md R317 (c)). -/
def SerialPort.report (p : SerialPort) (l : SerialLayout) (e : Option (BitVec 3)) : SerialPort :=
  let p := { p with errors := e }
  if e.getD 0 != 0 then p.signalEvent l.errie l.iackErr else p

/-- The port's interrupt line (spec/60_exceptions.md R316). -/
def SerialPort.line (p : SerialPort) : Bool := p.pending != 0

/-! ## Parallel port -/

/-- A load of a parallel register (spec/60_exceptions.md R320 to R327). -/
def ParallelPort.loadReg (p : ParallelPort) (l : ParallelLayout) (r : ParallelReg) (free : Word) : Word :=
  match r with
  | .switches => loadNarrow p.switches free
  | .buttons => loadNarrow p.buttons free
  | .lowerLeft => loadNarrow p.lowerLeft free
  | .lowerRight => loadNarrow p.lowerRight free
  | .control => loadNarrow p.control free
  | .acknowledge => setFlag free l.iack p.pending
  | .upperLeft => loadNarrow p.upperLeft free
  | .upperRight => loadNarrow p.upperRight free
  | .leds => loadNarrow p.leds free

/-- A store to a parallel register (spec/60_exceptions.md R320 to R327). -/
def ParallelPort.storeReg (p : ParallelPort) (l : ParallelLayout) (r : ParallelReg) (v : Word) :
    Except Refusal ParallelPort :=
  match r with
  | .switches => .error .storeToReadOnly
  | .buttons => .error .storeToReadOnly
  | .lowerLeft => .ok { p with lowerLeft := v.setWidth 8 }
  | .lowerRight => .ok { p with lowerRight := v.setWidth 8 }
  | .control => .ok { p with control := v.setWidth 2 }
  | .acknowledge =>
    match acknowledge (BitVec.ofBool p.pending) (BitVec.ofBool (v.getLsbD l.iack)) with
    | some pending => .ok { p with pending := pending.getLsbD 0 }
    | none => .error .acknowledgeOfClearBit
  | .upperLeft => .ok { p with upperLeft := v.setWidth 8 }
  | .upperRight => .ok { p with upperRight := v.setWidth 8 }
  | .leds => .ok { p with leds := v.setWidth 16 }

/-- A switch or button change, which raises the interrupt where it is enabled (spec/60_exceptions.md R328). -/
def ParallelPort.signalChange (p : ParallelPort) (l : ParallelLayout) : ParallelPort :=
  if p.control.getLsbD l.ie then { p with pending := true } else p

/-- The switches move to `v` (spec/60_exceptions.md R328). -/
def ParallelPort.moveSwitches (p : ParallelPort) (l : ParallelLayout) (v : BitVec 16) : ParallelPort :=
  if v = p.switches then p else ParallelPort.signalChange { p with switches := v } l

/-- The push buttons move to `v` (spec/60_exceptions.md R328). -/
def ParallelPort.moveButtons (p : ParallelPort) (l : ParallelLayout) (v : BitVec 3) : ParallelPort :=
  if v = p.buttons then p else ParallelPort.signalChange { p with buttons := v } l

/-- What one seven segment display shows (spec/60_exceptions.md R323). -/
inductive Shown where
  /-- A hexadecimal digit, with the decode on. -/
  | digit (d : BitVec 4)
  /-- With the decode off, the elements that are lit: a to g in bits 0 to 6, the decimal point in bit 7. -/
  | segments (lit : BitVec 8)
  deriving DecidableEq, Repr

/-- The elements a display register lights: element `j` where its bit under `PAR_SSD_SEGMENT_MAP` is 1
(spec/60_exceptions.md R323). -/
def ParallelLayout.lit (l : ParallelLayout) (v : BitVec 8) : BitVec 8 :=
  (List.finRange 8).foldl (fun lit (j : Fin 8) => setFlag lit j (v.getLsbD l.segmentMap[j])) 0

/-- What a display register `v` shows under the port's control register (spec/60_exceptions.md R323, R325). -/
def ParallelPort.shows (p : ParallelPort) (l : ParallelLayout) (v : BitVec 8) : Shown :=
  if p.control.getLsbD l.hex then .digit (v.setWidth 4) else .segments (l.lit v)

/-- The four displays from left to right (spec/60_exceptions.md R324, spec/90_conflicts.md C10). -/
def ParallelPort.displays (p : ParallelPort) (l : ParallelLayout) : List Shown :=
  [p.shows l p.upperLeft, p.shows l p.upperRight, p.shows l p.lowerLeft, p.shows l p.lowerRight]

/-! ## Timer -/

/-- The timer's control register (spec/60_exceptions.md R331). -/
def Timer.controlReg (t : Timer) (l : TimerLayout) : BitVec 2 :=
  setFlag (setFlag (0#2) l.enable t.enable) l.auto t.auto

/-- The timer's interrupt acknowledge register (spec/60_exceptions.md R334). -/
def Timer.acknowledgeReg (t : Timer) (l : TimerLayout) : BitVec 2 :=
  setFlag (setFlag (0#2) l.pending t.pending) l.overrun t.overrun

/-- A load of a timer register (spec/60_exceptions.md R331 to R334). -/
def Timer.loadReg (t : Timer) (l : TimerLayout) (r : TimerReg) (free : Word) : Word :=
  match r with
  | .control => loadNarrow (t.controlReg l) free
  | .load => loadNarrow t.load free
  | .count => loadNarrow t.count free
  | .acknowledge => loadNarrow (t.acknowledgeReg l) free

/-- A store to the timer's control register: enabling copies the load value to the count (spec/60_exceptions.md R335 (a),
(d)). [log 24] -/
def Timer.storeControl (t : Timer) (l : TimerLayout) (v : BitVec 2) : Except Refusal Timer :=
  let enable := v.getLsbD l.enable
  let auto := v.getLsbD l.auto
  if enable && !t.enable then
    if t.load = 0 then .error .timerEnabledWithZeroLoad
    else .ok { t with enable := true, auto := auto, count := t.load }
  else .ok { t with enable := enable, auto := auto }

/-- A store to a timer register (spec/60_exceptions.md R331 to R335). -/
def Timer.storeReg (t : Timer) (l : TimerLayout) (r : TimerReg) (v : Word) : Except Refusal Timer :=
  match r with
  | .control => t.storeControl l (v.setWidth 2)
  | .load => .ok { t with load := v.setWidth 16 }
  | .count => .error .storeToReadOnly
  | .acknowledge =>
    match acknowledge (t.acknowledgeReg l) (v.setWidth 2) with
    | some kept =>
      .ok { t with
        pending := kept.getLsbD l.pending
        overrun := kept.getLsbD l.overrun }
    | none => .error .acknowledgeOfClearBit

/-- The timer expires (spec/60_exceptions.md R335 (c)). -/
def Timer.expire (t : Timer) : Timer :=
  { t with
    overrun := t.overrun || (t.pending && t.auto)
    pending := true
    count := if t.auto then t.load else t.count
    enable := t.auto }

/-- One tick (spec/60_exceptions.md R335 (b)). -/
def Timer.tick (t : Timer) : Timer :=
  if t.enable then
    let t := { t with count := t.count - 1 }
    if t.count = 0 then t.expire else t
  else t

/-- One CPU clock cycle: the prescaler counts down from 1302, then inverts the clock signal; every second inversion ticks
the timer (spec/60_exceptions.md R336). [log 24] -/
def Timer.cycle (t : Timer) : Timer :=
  if t.prescaler.toNat ≤ 1 then
    let t' := { t with prescaler := prescalerStart, signal := !t.signal }
    if t.signal then t'.tick else t'
  else { t with prescaler := t.prescaler - 1 }

/-- `n` CPU clock cycles pass. -/
def Timer.cycles : Nat → Timer → Timer
  | 0, t => t
  | n + 1, t => Timer.cycles n t.cycle

end Sys2Proof.Machine
end

