-- ==== Sys2Proof/Machine/Ops.lean ====
section
/-! DEFINITION. The named operations of the machine: memory, registers, free values, the fields of `$cctrl`, interrupt
lines, taking an exception and returning from one, special registers, and the address path of every access. -/

namespace Sys2Proof.Machine

/-! ## Memory cells [log 1] -/

/-- The byte listed at a key, if there is one. -/
def Memory.read (m : Memory) (key : Nat) : Option Byte :=
  match m with
  | [] => none
  | (k, b) :: rest => if k = key then some b else Memory.read rest key

/-- Lists a byte at a key, in the place that keeps the keys rising. -/
def Memory.write (m : Memory) (key : Nat) (v : Byte) : Memory :=
  match m with
  | [] => [(key, v)]
  | (k, b) :: rest =>
    if key < k then (key, v) :: (k, b) :: rest
    else if key = k then (key, v) :: rest
    else (k, b) :: Memory.write rest key v

/-- Whether every key of a memory is above `bound`, and they rise. -/
def Memory.risingFrom (bound : Nat) (m : Memory) : Bool :=
  match m with
  | [] => true
  | (k, _) :: rest => decide (bound ≤ k) && Memory.risingFrom (k + 1) rest

/-- The canonical form of a memory: its keys rise strictly. An unlisted key reads as no value at this level, so no entry
equals what an unlisted key reads as. [log 1] -/
def Memory.wf (m : Memory) : Bool := Memory.risingFrom 0 m

/-- Lists the four bytes of a word, least significant byte at the lowest key. [log 1] -/
def Memory.writeWord (m : Memory) (a : Addr) (v : Word) : Memory :=
  let m := m.write (4 * a.toNat) (v.extractLsb' 0 8)
  let m := m.write (4 * a.toNat + 1) (v.extractLsb' 8 8)
  let m := m.write (4 * a.toNat + 2) (v.extractLsb' 16 8)
  m.write (4 * a.toNat + 3) (v.extractLsb' 24 8)

/-- What an unlisted key reads as, after the `epoch`-th reset: a byte of the ROM parameter or of the free contents of RAM
(spec/10_state.md R53, spec/20_memory.md R65). [log 2] [log 3] -/
def unlistedByte (epoch key : Nat) : Byte :=
  let a := key / 4
  let w := if 0x80000 ≤ a ∧ a < 0x88000 then Config.rom (a - 0x80000) else Config.ramAtReset epoch a
  w.extractLsb' (8 * (key % 4)) 8

/-- The byte at a key of RAM or ROM. -/
def State.readByte (s : State) (key : Nat) : Byte :=
  match s.mem.read key with
  | some b => b
  | none => unlistedByte s.ramEpoch key

/-- The word of RAM or ROM at an address (spec/20_memory.md R64, R65, R77). -/
def State.readWord (s : State) (a : Addr) : Word :=
  s.readByte (4 * a.toNat + 3) ++ s.readByte (4 * a.toNat + 2) ++ s.readByte (4 * a.toNat + 1) ++
    s.readByte (4 * a.toNat)

/-- `s` with the word at an address of RAM written (spec/20_memory.md R64, R69). -/
def State.writeWord (s : State) (a : Addr) (v : Word) : State :=
  { s with mem := s.mem.writeWord a v }

/-! ## Registers -/

/-- A read of general register `r`; `$0` reads 0 (spec/10_state.md R20, R21). -/
def State.reg (s : State) (r : RegNum) : Word :=
  if r = 0 then 0 else s.regs[r.toNat]

/-- A write of general register `r`; a write to `$0` is discarded (spec/10_state.md R21). -/
def State.setReg (s : State) (r : RegNum) (v : Word) : State :=
  if r = 0 then s else { s with regs := s.regs.set r.toNat v }

/-- `s` at the next instruction (spec/10_state.md R27, R28, R29). -/
def State.advance (s : State) : State := { s with pc := s.pc + 1 }

/-- `s` at the instruction at `a`. -/
def State.jump (s : State) (a : Addr) : State := { s with pc := a }

/-- An instruction completes: `x[rd] <- v; pc <- next` (spec/00_scope.md R11). -/
def State.retire (s : State) (rd : RegNum) (v : Word) : Result :=
  .next (s.setReg rd v).advance

/-! ## Free values [log 17] -/

/-- The free value the next draw gives. -/
def State.free (s : State) : Word := Config.freeWord s.draws

/-- `s` after a draw. -/
def State.drawn (s : State) : State := { s with draws := s.draws + 1 }

/-- `x[rd]` becomes a free value, as after an instruction that raised: parameter `FAULT_RD`
(spec/40_arithmetic.md R156; spec/44_loadstore.md R234). [log 13] -/
def State.scramble (s : State) (rd : RegNum) : State := s.drawn.setReg rd s.free

/-! ## The fields of `$cctrl` (spec/10_state.md R33 to R37) -/

def State.ie (s : State) : Bool := s.cctrl.getLsbD s.params.cctrl.ie
def State.oie (s : State) : Bool := s.cctrl.getLsbD s.params.cctrl.oie
def State.ku (s : State) : Bool := s.cctrl.getLsbD s.params.cctrl.ku
def State.oku (s : State) : Bool := s.cctrl.getLsbD s.params.cctrl.oku

/-- The interrupt mask, bits 11:4 (spec/10_state.md R35). -/
def State.mask (s : State) : BitVec 8 := s.cctrl.extractLsb' 4 8

/-! ## Interrupt lines (spec/60_exceptions.md R265, R266, R270) -/

def State.serial (s : State) (p : SerialPortId) : SerialPort :=
  match p with
  | .first => s.serial1
  | .second => s.serial2

def State.setSerial (s : State) (p : SerialPortId) (port : SerialPort) : State :=
  match p with
  | .first => { s with serial1 := port }
  | .second => { s with serial2 := port }

/-- The levels of IRQ7 to IRQ0; IRQ0, IRQ6 and IRQ7 are unconnected (spec/60_exceptions.md R265, R266). -/
def State.lines (s : State) : BitVec 8 :=
  0#2 ++ BitVec.ofBool s.serial2.line ++ BitVec.ofBool s.serial1.line ++ BitVec.ofBool s.parallel.pending ++
    BitVec.ofBool s.timer.pending ++ BitVec.ofBool s.userPending ++ 0#1

/-- The enabled lines (spec/60_exceptions.md R270). -/
def State.enabledLines (s : State) : BitVec 8 := if s.ie then s.mask else 0

/-- The interrupt condition: some line is asserted and enabled (spec/60_exceptions.md R270). -/
def State.interruptPending (s : State) : Bool := s.lines &&& s.enabledLines != 0

/-! ## Taking an exception and returning from one -/

/-- Bits 15:12 of the cause word (spec/60_exceptions.md R265, R277). -/
def causeBits (c : Option InternalCause) : BitVec 4 :=
  match c with
  | some .arithmetic => 0b1000
  | some .breakpoint => 0b0100
  | some .syscall => 0b0010
  | some .generalProtection => 0b0001
  | none => 0

/-- Bits 11:4 of the cause word: 1 for a line asserted and enabled, 0 for one not asserted, free for one asserted but not
enabled (spec/60_exceptions.md R277). [log 16] -/
def State.irqBits (s : State) : BitVec 8 :=
  let taken := s.lines &&& s.enabledLines
  let held := s.lines &&& ~~~s.enabledLines
  if held = 0 then taken else taken ||| (held &&& s.free.setWidth 8)

/-- The word written to `$estat` (spec/60_exceptions.md R277). -/
def State.causeWord (s : State) (c : Option InternalCause) : Word :=
  0#16 ++ causeBits c ++ s.irqBits ++ 0#4

/-- `$cctrl` after an entry: OIE <- IE; IE <- 0; OKU <- KU; KU <- 1 (spec/60_exceptions.md R275). -/
def CctrlLayout.enter (l : CctrlLayout) (c : BitVec 12) : BitVec 12 :=
  let c := setFlag c l.oie (c.getLsbD l.ie)
  let c := setFlag c l.ie false
  let c := setFlag c l.oku (c.getLsbD l.ku)
  setFlag c l.ku true

/-- `$cctrl` after a return: IE <- OIE; KU <- OKU (spec/60_exceptions.md R280). -/
def CctrlLayout.leave (l : CctrlLayout) (c : BitVec 12) : BitVec 12 :=
  let c := setFlag c l.ie (c.getLsbD l.oie)
  setFlag c l.ku (c.getLsbD l.oku)

/-- The entry procedure, the same for every cause; `none` is an interrupt (spec/60_exceptions.md R275). -/
def State.enter (s : State) (c : Option InternalCause) (returnAddress : Addr) : State :=
  { s with
    cctrl := s.params.cctrl.enter s.cctrl
    estat := s.causeWord c
    ers := s.reg 13
    ear := returnAddress.setWidth 32
    pc := s.evec.setWidth 20
    draws := s.draws + 1 }

/-- The instruction at `pc` raises an internal exception; the return address is the one after it
(spec/60_exceptions.md R276). -/
def State.raised (s : State) (c : InternalCause) : State := s.enter (some c) (s.pc + 1)

/-- An interrupt is taken; the return address is the instruction not yet executed (spec/60_exceptions.md R272, R276). -/
def State.interrupted (s : State) : State := s.enter none s.pc

/-- The return from an exception (spec/60_exceptions.md R280; spec/45_special.md R245). -/
def State.returned (s : State) : State :=
  ({ s with cctrl := s.params.cctrl.leave s.cctrl }.setReg 13 s.ers).jump (s.ear.setWidth 20)

/-! ## Special registers (spec/45_special.md R241, R242) -/

/-- A read of a special register: its value and the state after the read. Bits 31:12 of `$cctrl` are free (R38) [log 14];
the two counters have advanced by a free amount since they were last read (R44, R45) [log 15]. -/
def State.readSpr (s : State) (r : Spr) : Word × State :=
  match r with
  | .cctrl => (loadNarrow s.cctrl s.free, s.drawn)
  | .estat => (s.estat, s)
  | .icount => (s.icount + s.free, { s.drawn with icount := s.icount + s.free })
  | .ccount => (s.ccount + s.free, { s.drawn with ccount := s.ccount + s.free })
  | .evec => (s.evec, s)
  | .ear => (s.ear, s)
  | .ers => (s.ers, s)
  | .ptable => (s.ptable, s)
  | .rbase => (s.rbase, s)

/-- A write of a special register (spec/45_special.md R241; spec/10_state.md R38, R40, R44, R45, R48). -/
def State.writeSpr (s : State) (r : Spr) (v : Word) : Except Refusal State :=
  match r with
  | .cctrl => .ok { s with cctrl := v.setWidth 12 }
  | .estat => .error (.unwritableSpecialRegister .estat)
  | .icount => .error (.unwritableSpecialRegister .icount)
  | .ccount => .error (.unwritableSpecialRegister .ccount)
  | .evec => .ok { s with evec := v }
  | .ear => .ok { s with ear := v }
  | .ers => .ok { s with ers := v }
  | .ptable => .ok { s with ptable := v }
  | .rbase => if v = 0 then .ok { s with rbase := 0 } else .error (.nonZeroUserBase v)

/-- A privileged instruction: in user mode it raises the General Protection Fault and does nothing else, before anything
else is looked at (spec/45_special.md R246). -/
def State.privileged (s : State) (run : State → Result) : Result :=
  if s.ku then run s else .next (s.raised .generalProtection)

/-! ## The address path (spec/20_memory.md R70) -/

/-- How an access to memory or a device ends. -/
inductive Access (α : Type) where
  /-- The access is made: what it gave, and the state after its side effects. -/
  | done (a : α) (s : State)
  /-- The protection table forbids it; nothing was accessed (R70 (2)). -/
  | protectionFault
  /-- Nothing is at the address (R67). -/
  | fault (f : Fault)
  /-- The spec gives it no meaning. -/
  | refused (r : Refusal)

/-- Step (1): the base is added (spec/20_memory.md R70, R71). [log 25] -/
def State.based (s : State) (a : Addr) : Addr := a + s.rbase.setWidth 20

/-- Whether an address is in RAM or ROM. -/
def isMemory (a : Addr) : Bool :=
  match regionOf a with
  | .ram => true
  | .rom => true
  | _ => false

/-- The address of the protection table (spec/10_state.md R47). -/
def State.table (s : State) : Addr := s.ptable.setWidth 20

/-- Whether the 32 table words lie in RAM or ROM (spec/20_memory.md R74). [log 26] -/
def State.tableInMemory (s : State) : Bool :=
  (List.range 32).all fun w => isMemory (s.table + BitVec.ofNat 20 w)

/-- The protection bit of an address: bit `31 - a[14:10]` of the table word `a[19:15]` (spec/20_memory.md R73). -/
def State.allowed (s : State) (a : Addr) : Bool :=
  (s.readWord (s.table + (a.extractLsb' 15 5).setWidth 20)).getLsbD (31 - (a.extractLsb' 10 5).toNat)

/-- Step (2): the access `go` under the protection check, which is made in user mode only (spec/20_memory.md R70, R74). -/
def State.checked {α : Type} (s : State) (a : Addr) (go : Access α) : Access α :=
  if s.ku then go
  else if !s.tableInMemory then .refused .protectionTableOutsideMemory
  else if s.allowed a then go
  else .protectionFault

/-- Step (3) for a read: dispatch by region (spec/20_memory.md R63, R70). -/
def State.busRead (s : State) (a : Addr) : Access Word :=
  match regionOf a with
  | .ram => .done (s.readWord a) s
  | .rom => .done (s.readWord a) s
  | .serial p r =>
    match (s.serial p).loadReg s.params.serial r s.free with
    | .ok (v, port) => .done v (s.drawn.setSerial p port)
    | .error e => .refused e
  | .timer r => .done (s.timer.loadReg s.params.timer r s.free) s.drawn
  | .parallel r => .done (s.parallel.loadReg s.params.parallel r s.free) s.drawn
  | .userAcknowledge => .refused .loadFromUserAcknowledge
  | .unassigned => .fault (.unassignedAddress a)

/-- Step (3) for a write: dispatch by region (spec/20_memory.md R63, R70). -/
def State.busWrite (s : State) (a : Addr) (v : Word) : Access Unit :=
  match regionOf a with
  | .ram => .done () (s.writeWord a v)
  | .rom => .refused (.storeToRom a)
  | .serial p r =>
    match (s.serial p).storeReg s.params.serial r v s.free with
    | .ok port => .done () (s.drawn.setSerial p port)
    | .error e => .refused e
  | .timer r =>
    match s.timer.storeReg s.params.timer r v with
    | .ok t => .done () { s with timer := t }
    | .error e => .refused e
  | .parallel r =>
    match s.parallel.storeReg s.params.parallel r v with
    | .ok p => .done () { s with parallel := p }
    | .error e => .refused e
  | .userAcknowledge =>
    if v = 0 then .done () { s with userPending := false } else .refused (.nonZeroUserAcknowledge v)
  | .unassigned => .fault (.unassignedAddress a)

/-- `MemRead(a, 1)` (spec/00_scope.md R11, spec/20_memory.md R70). -/
def State.memRead (s : State) (a : Addr) : Access Word :=
  s.checked (s.based a) (s.busRead (s.based a))

/-- `MemWrite(a, 1, v)` (spec/00_scope.md R11, spec/20_memory.md R70). -/
def State.memWrite (s : State) (a : Addr) (v : Word) : Access Unit :=
  s.checked (s.based a) (s.busWrite (s.based a) v)

/-- The fetch of the word at `pc`, through the same path (spec/20_memory.md R70, R74, R82). [log 28] -/
def State.fetch (s : State) : Access Word := s.memRead s.pc

end Sys2Proof.Machine
end

