-- ==== Sys2Proof/Machine/Arithmetic.lean ====
section
/-! DEFINITION. Arithmetic instructions (spec/40_arithmetic.md R130 to R158). -/

namespace Sys2Proof.Machine

/-- The end of an arithmetic instruction: the result goes to `x[rd]`, or the Arithmetic Exception is taken with `x[rd]`
free (spec/40_arithmetic.md R156, R157, R158). -/
def arithmetic (rd : RegNum) (result : Option Word) (s : State) : Result :=
  match result with
  | some v => s.retire rd v
  | none => .next ((s.scramble rd).raised .arithmetic)

/-- `add` (spec/40_arithmetic.md R131). -/
def execAdd (rd rs rt : RegNum) (s : State) : Result :=
  arithmetic rd (signedSum (s.reg rs) (s.reg rt)) s

/-- `addi` (spec/40_arithmetic.md R132). -/
def execAddi (rd rs : RegNum) (imm : BitVec 16) (s : State) : Result :=
  arithmetic rd (signedSum (s.reg rs) (signImm imm)) s

/-- `addu` (spec/40_arithmetic.md R133). -/
def execAddu (rd rs rt : RegNum) (s : State) : Result :=
  arithmetic rd (unsignedSum (s.reg rs) (s.reg rt)) s

/-- `addui` (spec/40_arithmetic.md R134). -/
def execAddui (rd rs : RegNum) (imm : BitVec 16) (s : State) : Result :=
  arithmetic rd (unsignedSum (s.reg rs) (zeroImm imm)) s

/-- `sub` (spec/40_arithmetic.md R135). -/
def execSub (rd rs rt : RegNum) (s : State) : Result :=
  arithmetic rd (signedDifference (s.reg rs) (s.reg rt)) s

/-- `subi` (spec/40_arithmetic.md R136). -/
def execSubi (rd rs : RegNum) (imm : BitVec 16) (s : State) : Result :=
  arithmetic rd (signedDifference (s.reg rs) (signImm imm)) s

/-- `subu` (spec/40_arithmetic.md R137). -/
def execSubu (rd rs rt : RegNum) (s : State) : Result :=
  arithmetic rd (unsignedDifference (s.reg rs) (s.reg rt)) s

/-- `subui` (spec/40_arithmetic.md R138). -/
def execSubui (rd rs : RegNum) (imm : BitVec 16) (s : State) : Result :=
  arithmetic rd (unsignedDifference (s.reg rs) (zeroImm imm)) s

/-- `mult` (spec/40_arithmetic.md R139). -/
def execMult (rd rs rt : RegNum) (s : State) : Result :=
  arithmetic rd (signedProduct (s.reg rs) (s.reg rt)) s

/-- `multi` (spec/40_arithmetic.md R140). -/
def execMulti (rd rs : RegNum) (imm : BitVec 16) (s : State) : Result :=
  arithmetic rd (signedProduct (s.reg rs) (signImm imm)) s

/-- `multu` (spec/40_arithmetic.md R141). -/
def execMultu (rd rs rt : RegNum) (s : State) : Result :=
  arithmetic rd (unsignedProduct (s.reg rs) (s.reg rt)) s

/-- `multui` (spec/40_arithmetic.md R142). -/
def execMultui (rd rs : RegNum) (imm : BitVec 16) (s : State) : Result :=
  arithmetic rd (unsignedProduct (s.reg rs) (zeroImm imm)) s

/-- `div` (spec/40_arithmetic.md R143). -/
def execDiv (rd rs rt : RegNum) (s : State) : Result :=
  arithmetic rd (signedQuotient (s.reg rs) (s.reg rt)) s

/-- `divi` (spec/40_arithmetic.md R144). -/
def execDivi (rd rs : RegNum) (imm : BitVec 16) (s : State) : Result :=
  arithmetic rd (signedQuotient (s.reg rs) (signImm imm)) s

/-- `divu` (spec/40_arithmetic.md R145). -/
def execDivu (rd rs rt : RegNum) (s : State) : Result :=
  arithmetic rd (unsignedQuotient (s.reg rs) (s.reg rt)) s

/-- `divui` (spec/40_arithmetic.md R146). -/
def execDivui (rd rs : RegNum) (imm : BitVec 16) (s : State) : Result :=
  arithmetic rd (unsignedQuotient (s.reg rs) (zeroImm imm)) s

/-- `rem` (spec/40_arithmetic.md R147). -/
def execRem (rd rs rt : RegNum) (s : State) : Result :=
  arithmetic rd (signedRemainder (s.reg rs) (s.reg rt)) s

/-- `remi` (spec/40_arithmetic.md R148). -/
def execRemi (rd rs : RegNum) (imm : BitVec 16) (s : State) : Result :=
  arithmetic rd (signedRemainder (s.reg rs) (signImm imm)) s

/-- `remu` (spec/40_arithmetic.md R149). -/
def execRemu (rd rs rt : RegNum) (s : State) : Result :=
  arithmetic rd (unsignedRemainder (s.reg rs) (s.reg rt)) s

/-- `remui` (spec/40_arithmetic.md R150). -/
def execRemui (rd rs : RegNum) (imm : BitVec 16) (s : State) : Result :=
  arithmetic rd (unsignedRemainder (s.reg rs) (zeroImm imm)) s

/-- `lhi` (spec/40_arithmetic.md R151). -/
def execLhi (rd : RegNum) (imm : BitVec 16) (s : State) : Result :=
  s.retire rd (highImm imm)

/-- `la` (spec/40_arithmetic.md R152). -/
def execLa (rd : RegNum) (addr : Addr) (s : State) : Result :=
  s.retire rd (addressValue addr)

end Sys2Proof.Machine
end

