-- ==== Sys2Proof/Machine/Bitwise.lean ====
section
/-! DEFINITION. Bitwise and shift instructions (spec/41_bitwise.md R160 to R175). None raises an exception. -/

namespace Sys2Proof.Machine

/-- `and` (spec/41_bitwise.md R161, R174). -/
def execAnd (rd rs rt : RegNum) (s : State) : Result :=
  s.retire rd (s.reg rs &&& s.reg rt)

/-- `andi` (spec/41_bitwise.md R162, R174). -/
def execAndi (rd rs : RegNum) (imm : BitVec 16) (s : State) : Result :=
  s.retire rd (s.reg rs &&& zeroImm imm)

/-- `or` (spec/41_bitwise.md R163, R174). -/
def execOr (rd rs rt : RegNum) (s : State) : Result :=
  s.retire rd (s.reg rs ||| s.reg rt)

/-- `ori` (spec/41_bitwise.md R164, R174). -/
def execOri (rd rs : RegNum) (imm : BitVec 16) (s : State) : Result :=
  s.retire rd (s.reg rs ||| zeroImm imm)

/-- `xor` (spec/41_bitwise.md R165, R174). -/
def execXor (rd rs rt : RegNum) (s : State) : Result :=
  s.retire rd (s.reg rs ^^^ s.reg rt)

/-- `xori` (spec/41_bitwise.md R166, R174). -/
def execXori (rd rs : RegNum) (imm : BitVec 16) (s : State) : Result :=
  s.retire rd (s.reg rs ^^^ zeroImm imm)

/-- `sll` (spec/41_bitwise.md R167, R173). -/
def execSll (rd rs rt : RegNum) (s : State) : Result :=
  s.retire rd (s.reg rs <<< shiftCount (s.reg rt))

/-- `slli` (spec/41_bitwise.md R168, R173). -/
def execSlli (rd rs : RegNum) (imm : BitVec 16) (s : State) : Result :=
  s.retire rd (s.reg rs <<< shiftCountImm imm)

/-- `srl` (spec/41_bitwise.md R169, R173). -/
def execSrl (rd rs rt : RegNum) (s : State) : Result :=
  s.retire rd (s.reg rs >>> shiftCount (s.reg rt))

/-- `srli` (spec/41_bitwise.md R170, R173). -/
def execSrli (rd rs : RegNum) (imm : BitVec 16) (s : State) : Result :=
  s.retire rd (s.reg rs >>> shiftCountImm imm)

/-- `sra` (spec/41_bitwise.md R171, R173). -/
def execSra (rd rs rt : RegNum) (s : State) : Result :=
  s.retire rd ((s.reg rs).sshiftRight (shiftCount (s.reg rt)))

/-- `srai` (spec/41_bitwise.md R172, R173). -/
def execSrai (rd rs : RegNum) (imm : BitVec 16) (s : State) : Result :=
  s.retire rd ((s.reg rs).sshiftRight (shiftCountImm imm))

end Sys2Proof.Machine
end

