-- ==== Sys2Proof/Machine/Branch.lean ====
section
/-! DEFINITION. Jumps and branches (spec/43_branch.md R210 to R219). None raises an exception of its own. -/

namespace Sys2Proof.Machine

/-- A conditional branch: to its target where the condition holds, else to the next instruction
(spec/43_branch.md R215, R216). -/
def branchIf (taken : Bool) (offset : BitVec 20) (s : State) : Result :=
  .next (if taken then s.jump (branchTarget s.pc offset) else s.advance)

/-- `j` (spec/43_branch.md R211). -/
def execJ (addr : Addr) (s : State) : Result :=
  .next (s.jump addr)

/-- `jr` (spec/43_branch.md R212). -/
def execJr (rs : RegNum) (s : State) : Result :=
  .next (s.jump (registerTarget (s.reg rs)))

/-- `jal` (spec/43_branch.md R213). -/
def execJal (addr : Addr) (s : State) : Result :=
  .next ((s.setReg 15 (linkValue s.pc)).jump addr)

/-- `jalr`; with `$ra` as its operand the spec gives it no meaning (spec/43_branch.md R214). -/
def execJalr (rs : RegNum) (s : State) : Result :=
  if rs = 15 then .refused .jumpAndLinkThroughLink
  else .next ((s.setReg 15 (linkValue s.pc)).jump (registerTarget (s.reg rs)))

/-- `beqz` (spec/43_branch.md R215). -/
def execBeqz (rs : RegNum) (offset : BitVec 20) (s : State) : Result :=
  branchIf (s.reg rs == 0) offset s

/-- `bnez` (spec/43_branch.md R216). -/
def execBnez (rs : RegNum) (offset : BitVec 20) (s : State) : Result :=
  branchIf (s.reg rs != 0) offset s

end Sys2Proof.Machine
end

