-- ==== Sys2Proof/Machine/LoadStore.lean ====
section
/-! DEFINITION. Memory instructions (spec/44_loadstore.md R230 to R238). -/

namespace Sys2Proof.Machine

/-- `lw`: the access is made, then its value written; a forbidden access raises the General Protection Fault with `x[rd]`
free (spec/44_loadstore.md R231, R234, R236). -/
def execLw (rd rs : RegNum) (offset : BitVec 20) (s : State) : Result :=
  match s.memRead (effectiveAddress (s.reg rs) offset) with
  | .done v s' => s'.retire rd v
  | .protectionFault => .next ((s.scramble rd).raised .generalProtection)
  | .fault f => .fault f
  | .refused r => .refused r

/-- `sw`: a forbidden access raises the General Protection Fault and memory is not written
(spec/44_loadstore.md R232, R234). -/
def execSw (rd rs : RegNum) (offset : BitVec 20) (s : State) : Result :=
  match s.memWrite (effectiveAddress (s.reg rs) offset) (s.reg rd) with
  | .done _ s' => .next s'.advance
  | .protectionFault => .next (s.raised .generalProtection)
  | .fault f => .fault f
  | .refused r => .refused r

end Sys2Proof.Machine
end

