-- ==== Sys2Proof/Machine/Special.lean ====
section
/-! DEFINITION. Special instructions (spec/45_special.md R240 to R249). -/

namespace Sys2Proof.Machine

/-- `movgs` (spec/45_special.md R241, R246). -/
def execMovgs (sd rs : RegNum) (s : State) : Result :=
  s.privileged fun s =>
    match s.params.spr.named sd with
    | none => .refused (.unnamedSpecialRegister sd)
    | some r =>
      match s.writeSpr r (s.reg rs) with
      | .ok s' => .next s'.advance
      | .error e => .refused e

/-- `movsg` (spec/45_special.md R242, R246). -/
def execMovsg (rd ss : RegNum) (s : State) : Result :=
  s.privileged fun s =>
    match s.params.spr.named ss with
    | none => .refused (.unnamedSpecialRegister ss)
    | some r => (s.readSpr r).2.retire rd (s.readSpr r).1

/-- `break` (spec/45_special.md R243). -/
def execBreak (s : State) : Result :=
  .next (s.raised .breakpoint)

/-- `syscall` (spec/45_special.md R244). -/
def execSyscall (s : State) : Result :=
  .next (s.raised .syscall)

/-- `rfe` (spec/45_special.md R245, R246). -/
def execRfe (s : State) : Result :=
  s.privileged fun s => .next s.returned

end Sys2Proof.Machine
end

