-- ==== Sys2Proof/Machine/Test.lean ====
section
/-! DEFINITION. Test instructions (spec/42_test.md R180 to R207): the destination becomes 1 where the relation holds and 0
where it does not. None raises an exception. -/

namespace Sys2Proof.Machine

/-- `slt` (spec/42_test.md R181). -/
def execSlt (rd rs rt : RegNum) (s : State) : Result :=
  s.retire rd (testResult (ltSigned (s.reg rs) (s.reg rt)))

/-- `slti` (spec/42_test.md R182). -/
def execSlti (rd rs : RegNum) (imm : BitVec 16) (s : State) : Result :=
  s.retire rd (testResult (ltSigned (s.reg rs) (signImm imm)))

/-- `sltu` (spec/42_test.md R183). -/
def execSltu (rd rs rt : RegNum) (s : State) : Result :=
  s.retire rd (testResult (ltUnsigned (s.reg rs) (s.reg rt)))

/-- `sltui` (spec/42_test.md R184). -/
def execSltui (rd rs : RegNum) (imm : BitVec 16) (s : State) : Result :=
  s.retire rd (testResult (ltUnsigned (s.reg rs) (zeroImm imm)))

/-- `sgt` (spec/42_test.md R185). -/
def execSgt (rd rs rt : RegNum) (s : State) : Result :=
  s.retire rd (testResult (gtSigned (s.reg rs) (s.reg rt)))

/-- `sgti` (spec/42_test.md R186). -/
def execSgti (rd rs : RegNum) (imm : BitVec 16) (s : State) : Result :=
  s.retire rd (testResult (gtSigned (s.reg rs) (signImm imm)))

/-- `sgtu` (spec/42_test.md R187). -/
def execSgtu (rd rs rt : RegNum) (s : State) : Result :=
  s.retire rd (testResult (gtUnsigned (s.reg rs) (s.reg rt)))

/-- `sgtui` (spec/42_test.md R188). -/
def execSgtui (rd rs : RegNum) (imm : BitVec 16) (s : State) : Result :=
  s.retire rd (testResult (gtUnsigned (s.reg rs) (zeroImm imm)))

/-- `sle` (spec/42_test.md R189). -/
def execSle (rd rs rt : RegNum) (s : State) : Result :=
  s.retire rd (testResult (leSigned (s.reg rs) (s.reg rt)))

/-- `slei` (spec/42_test.md R190). -/
def execSlei (rd rs : RegNum) (imm : BitVec 16) (s : State) : Result :=
  s.retire rd (testResult (leSigned (s.reg rs) (signImm imm)))

/-- `sleu` (spec/42_test.md R191). -/
def execSleu (rd rs rt : RegNum) (s : State) : Result :=
  s.retire rd (testResult (leUnsigned (s.reg rs) (s.reg rt)))

/-- `sleui` (spec/42_test.md R192). -/
def execSleui (rd rs : RegNum) (imm : BitVec 16) (s : State) : Result :=
  s.retire rd (testResult (leUnsigned (s.reg rs) (zeroImm imm)))

/-- `sge` (spec/42_test.md R193). -/
def execSge (rd rs rt : RegNum) (s : State) : Result :=
  s.retire rd (testResult (geSigned (s.reg rs) (s.reg rt)))

/-- `sgei` (spec/42_test.md R194). -/
def execSgei (rd rs : RegNum) (imm : BitVec 16) (s : State) : Result :=
  s.retire rd (testResult (geSigned (s.reg rs) (signImm imm)))

/-- `sgeu` (spec/42_test.md R195). -/
def execSgeu (rd rs rt : RegNum) (s : State) : Result :=
  s.retire rd (testResult (geUnsigned (s.reg rs) (s.reg rt)))

/-- `sgeui` (spec/42_test.md R196). -/
def execSgeui (rd rs : RegNum) (imm : BitVec 16) (s : State) : Result :=
  s.retire rd (testResult (geUnsigned (s.reg rs) (zeroImm imm)))

/-- `seq` (spec/42_test.md R197). -/
def execSeq (rd rs rt : RegNum) (s : State) : Result :=
  s.retire rd (testResult (eqSigned (s.reg rs) (s.reg rt)))

/-- `seqi` (spec/42_test.md R198). -/
def execSeqi (rd rs : RegNum) (imm : BitVec 16) (s : State) : Result :=
  s.retire rd (testResult (eqSigned (s.reg rs) (signImm imm)))

/-- `sequ` (spec/42_test.md R199). -/
def execSequ (rd rs rt : RegNum) (s : State) : Result :=
  s.retire rd (testResult (eqUnsigned (s.reg rs) (s.reg rt)))

/-- `sequi` (spec/42_test.md R200). -/
def execSequi (rd rs : RegNum) (imm : BitVec 16) (s : State) : Result :=
  s.retire rd (testResult (eqUnsigned (s.reg rs) (zeroImm imm)))

/-- `sne` (spec/42_test.md R201). -/
def execSne (rd rs rt : RegNum) (s : State) : Result :=
  s.retire rd (testResult (neSigned (s.reg rs) (s.reg rt)))

/-- `snei` (spec/42_test.md R202). -/
def execSnei (rd rs : RegNum) (imm : BitVec 16) (s : State) : Result :=
  s.retire rd (testResult (neSigned (s.reg rs) (signImm imm)))

/-- `sneu` (spec/42_test.md R203). -/
def execSneu (rd rs rt : RegNum) (s : State) : Result :=
  s.retire rd (testResult (neUnsigned (s.reg rs) (s.reg rt)))

/-- `sneui` (spec/42_test.md R204). -/
def execSneui (rd rs : RegNum) (imm : BitVec 16) (s : State) : Result :=
  s.retire rd (testResult (neUnsigned (s.reg rs) (zeroImm imm)))

end Sys2Proof.Machine
end

