-- ==== Sys2Proof/Machine/Dispatch.lean ====
section
/-! DEFINITION. The dispatch: each instruction's meaning, in the order of spec/opcode_table.json. -/

namespace Sys2Proof.Machine

/-- The meaning of each instruction. -/
def exec (i : Instr) (s : State) : Host.Outcome State Fault Refusal :=
  match i with
  | .add rd rs rt => Sys2Proof.Machine.execAdd rd rs rt s
  | .addi rd rs imm => Sys2Proof.Machine.execAddi rd rs imm s
  | .addu rd rs rt => Sys2Proof.Machine.execAddu rd rs rt s
  | .addui rd rs imm => Sys2Proof.Machine.execAddui rd rs imm s
  | .sub rd rs rt => Sys2Proof.Machine.execSub rd rs rt s
  | .subi rd rs imm => Sys2Proof.Machine.execSubi rd rs imm s
  | .subu rd rs rt => Sys2Proof.Machine.execSubu rd rs rt s
  | .subui rd rs imm => Sys2Proof.Machine.execSubui rd rs imm s
  | .mult rd rs rt => Sys2Proof.Machine.execMult rd rs rt s
  | .multi rd rs imm => Sys2Proof.Machine.execMulti rd rs imm s
  | .multu rd rs rt => Sys2Proof.Machine.execMultu rd rs rt s
  | .multui rd rs imm => Sys2Proof.Machine.execMultui rd rs imm s
  | .div rd rs rt => Sys2Proof.Machine.execDiv rd rs rt s
  | .divi rd rs imm => Sys2Proof.Machine.execDivi rd rs imm s
  | .divu rd rs rt => Sys2Proof.Machine.execDivu rd rs rt s
  | .divui rd rs imm => Sys2Proof.Machine.execDivui rd rs imm s
  | .rem rd rs rt => Sys2Proof.Machine.execRem rd rs rt s
  | .remi rd rs imm => Sys2Proof.Machine.execRemi rd rs imm s
  | .remu rd rs rt => Sys2Proof.Machine.execRemu rd rs rt s
  | .remui rd rs imm => Sys2Proof.Machine.execRemui rd rs imm s
  | .lhi rd imm => Sys2Proof.Machine.execLhi rd imm s
  | .la rd addr => Sys2Proof.Machine.execLa rd addr s
  | .and rd rs rt => Sys2Proof.Machine.execAnd rd rs rt s
  | .andi rd rs imm => Sys2Proof.Machine.execAndi rd rs imm s
  | .or rd rs rt => Sys2Proof.Machine.execOr rd rs rt s
  | .ori rd rs imm => Sys2Proof.Machine.execOri rd rs imm s
  | .xor rd rs rt => Sys2Proof.Machine.execXor rd rs rt s
  | .xori rd rs imm => Sys2Proof.Machine.execXori rd rs imm s
  | .sll rd rs rt => Sys2Proof.Machine.execSll rd rs rt s
  | .slli rd rs imm => Sys2Proof.Machine.execSlli rd rs imm s
  | .srl rd rs rt => Sys2Proof.Machine.execSrl rd rs rt s
  | .srli rd rs imm => Sys2Proof.Machine.execSrli rd rs imm s
  | .sra rd rs rt => Sys2Proof.Machine.execSra rd rs rt s
  | .srai rd rs imm => Sys2Proof.Machine.execSrai rd rs imm s
  | .slt rd rs rt => Sys2Proof.Machine.execSlt rd rs rt s
  | .slti rd rs imm => Sys2Proof.Machine.execSlti rd rs imm s
  | .sltu rd rs rt => Sys2Proof.Machine.execSltu rd rs rt s
  | .sltui rd rs imm => Sys2Proof.Machine.execSltui rd rs imm s
  | .sgt rd rs rt => Sys2Proof.Machine.execSgt rd rs rt s
  | .sgti rd rs imm => Sys2Proof.Machine.execSgti rd rs imm s
  | .sgtu rd rs rt => Sys2Proof.Machine.execSgtu rd rs rt s
  | .sgtui rd rs imm => Sys2Proof.Machine.execSgtui rd rs imm s
  | .sle rd rs rt => Sys2Proof.Machine.execSle rd rs rt s
  | .slei rd rs imm => Sys2Proof.Machine.execSlei rd rs imm s
  | .sleu rd rs rt => Sys2Proof.Machine.execSleu rd rs rt s
  | .sleui rd rs imm => Sys2Proof.Machine.execSleui rd rs imm s
  | .sge rd rs rt => Sys2Proof.Machine.execSge rd rs rt s
  | .sgei rd rs imm => Sys2Proof.Machine.execSgei rd rs imm s
  | .sgeu rd rs rt => Sys2Proof.Machine.execSgeu rd rs rt s
  | .sgeui rd rs imm => Sys2Proof.Machine.execSgeui rd rs imm s
  | .seq rd rs rt => Sys2Proof.Machine.execSeq rd rs rt s
  | .seqi rd rs imm => Sys2Proof.Machine.execSeqi rd rs imm s
  | .sequ rd rs rt => Sys2Proof.Machine.execSequ rd rs rt s
  | .sequi rd rs imm => Sys2Proof.Machine.execSequi rd rs imm s
  | .sne rd rs rt => Sys2Proof.Machine.execSne rd rs rt s
  | .snei rd rs imm => Sys2Proof.Machine.execSnei rd rs imm s
  | .sneu rd rs rt => Sys2Proof.Machine.execSneu rd rs rt s
  | .sneui rd rs imm => Sys2Proof.Machine.execSneui rd rs imm s
  | .j addr => Sys2Proof.Machine.execJ addr s
  | .jr rs => Sys2Proof.Machine.execJr rs s
  | .jal addr => Sys2Proof.Machine.execJal addr s
  | .jalr rs => Sys2Proof.Machine.execJalr rs s
  | .beqz rs offset => Sys2Proof.Machine.execBeqz rs offset s
  | .bnez rs offset => Sys2Proof.Machine.execBnez rs offset s
  | .lw rd rs offset => Sys2Proof.Machine.execLw rd rs offset s
  | .sw rd rs offset => Sys2Proof.Machine.execSw rd rs offset s
  | .movgs sd rs => Sys2Proof.Machine.execMovgs sd rs s
  | .movsg rd ss => Sys2Proof.Machine.execMovsg rd ss s
  | .brk => Sys2Proof.Machine.execBreak s
  | .syscall => Sys2Proof.Machine.execSyscall s
  | .rfe => Sys2Proof.Machine.execRfe s

end Sys2Proof.Machine
end

