-- ==== Sys2Proof/Machine/Environment.lean ====
section
/-! DEFINITION. The device agents: what each event of the environment does (spec/60_exceptions.md R317, R328, R335, R336,
R340; spec/70_reset_and_hazards.md R350), and how a step takes the events that fall before it (R272). [log 18] -/

namespace Sys2Proof.Machine

/-- Memory without the cells of RAM: what the ROM holds. -/
def Memory.romOnly (m : Memory) : Memory :=
  m.filter fun c => decide (0x80000 ≤ c.1 / 4)

/-- The machine after the RESET button: the reset state, with the ROM, the positions of switches and buttons and the rest
of the script as they were, RAM free again (spec/70_reset_and_hazards.md R350, R351; spec/10_state.md R53). [log 19] -/
def State.pressReset (s : State) : State :=
  { State.resetWith s.params with
    mem := s.mem.romOnly
    parallel := { ParallelPort.reset s.params.parallel with switches := s.parallel.switches, buttons := s.parallel.buttons }
    serial1 := { SerialPort.reset with sent := s.serial1.sent }
    serial2 := { SerialPort.reset with sent := s.serial2.sent }
    draws := s.draws
    ramEpoch := s.ramEpoch + 1
    script := s.script }

/-- What one device event does. -/
def State.apply (s : State) (e : DeviceEvent) : State :=
  match e with
  | .serialReceive p c => s.setSerial p ((s.serial p).arrive s.params.serial c)
  | .serialSent p => s.setSerial p ((s.serial p).finish s.params.serial)
  | .serialErrors p e => s.setSerial p ((s.serial p).report s.params.serial e)
  | .switches v => { s with parallel := s.parallel.moveSwitches s.params.parallel v }
  | .buttons v => { s with parallel := s.parallel.moveButtons s.params.parallel v }
  | .clock n => { s with timer := s.timer.cycles n }
  | .userButton => { s with userPending := true }
  | .resetButton => s.pressReset

/-- The events of the next boundary. At least one CPU clock cycle passes, as every step takes at least one
(spec/70_reset_and_hazards.md R372); then come the events the environment chose. Where its choices are used up, a busy
transmitter finishes. So an enabled timer ticks again, and a busy transmitter empties, after finitely many CPU steps
(R374; spec/60_exceptions.md R317). [log 18] [log 23] [log 29] -/
def State.boundaryEvents (s : State) : List DeviceEvent :=
  match s.script with
  | [] => [.clock 1, .serialSent .first, .serialSent .second]
  | events :: _ => .clock 1 :: events

/-- The state at the boundary of a step: its events have happened, in order (spec/60_exceptions.md R272). -/
def State.deliver (s : State) : State :=
  s.boundaryEvents.foldl State.apply { s with script := s.script.tail }

end Sys2Proof.Machine
end

