-- ==== Sys2Proof/Machine/Step.lean ====
section
/-! DEFINITION. One CPU step (spec/60_exceptions.md R272, R278). -/

namespace Sys2Proof.Machine

/-- The fetched word is decoded and executed (spec/30_encoding.md R105, R106, R108; spec/60_exceptions.md R278). -/
def executeWord (w : Word) (s : State) : Result :=
  match decode w with
  | .instr i => exec i s
  | .unassigned => .next (s.raised .generalProtection)
  | .reserved => .refused (.reservedEncoding w)

/-- The instruction at `pc` is fetched and executed; a forbidden fetch raises the General Protection Fault
(spec/20_memory.md R74). -/
def fetchAndExecute (s : State) : Result :=
  match s.fetch with
  | .done w s' => executeWord w s'
  | .protectionFault => .next (s.raised .generalProtection)
  | .fault f => .fault f
  | .refused r => .refused r

/-- One step: the device events that fall before this boundary happen; then an interrupt is taken if its condition holds,
and otherwise one instruction is executed (spec/60_exceptions.md R272). -/
def step (s : State) : Host.Outcome State Fault Refusal :=
  if s.deliver.interruptPending then .next s.deliver.interrupted else fetchAndExecute s.deliver

/-- `s` with a word placed where `step` fetches its next instruction, in RAM or ROM. [log 3] -/
def State.withFetchWord (s : State) (nbits w : Nat) : State :=
  s.writeWord (s.based s.pc) (BitVec.ofNat 32 (w % 2 ^ nbits))

end Sys2Proof.Machine
end

