-- ==== Sys2Proof/Safety.lean ====
section
/-! DEFINITION. What the statements speak of: which parts of the machine an instruction leaves as they were, how an
instruction ends (a result in a register, a jump, an exception taken), the invariant of the machine, and the state in
which the monitor starts a program. The model's own counter of free values, `draws`, is in none of them. -/

namespace Sys2Proof.Machine

/-! ## What stays the same -/

/-- Every general register reads as before. -/
def SameRegisters (s t : State) : Prop := ∀ r : RegNum, t.reg r = s.reg r

/-- Every general register but `rd` reads as before. -/
def SameRegistersBut (rd : RegNum) (s t : State) : Prop := ∀ r : RegNum, r ≠ rd → t.reg r = s.reg r

/-- Every special register, the flags and the mask of `$cctrl` among them, is as before (spec/10_state.md R32), and so are
the parameters of the machine. -/
structure SameSpecial (s t : State) : Prop where
  params : t.params = s.params
  cctrl : t.cctrl = s.cctrl
  estat : t.estat = s.estat
  icount : t.icount = s.icount
  ccount : t.ccount = s.ccount
  evec : t.evec = s.evec
  ear : t.ear = s.ear
  ers : t.ers = s.ers
  ptable : t.ptable = s.ptable
  rbase : t.rbase = s.rbase

/-- Every byte of RAM and ROM reads as before. -/
def SameMemory (s t : State) : Prop := ∀ key : Nat, t.readByte key = s.readByte key

/-- Every byte of RAM and ROM reads as before, but for the four bytes of the word at `a`. -/
def SameMemoryBut (a : Addr) (s t : State) : Prop :=
  ∀ key : Nat, key < 4 * a.toNat ∨ 4 * a.toNat + 4 ≤ key → t.readByte key = s.readByte key

/-- Every device, and what the environment is still to do, is as before. -/
structure SameDevices (s t : State) : Prop where
  serial1 : t.serial1 = s.serial1
  serial2 : t.serial2 = s.serial2
  parallel : t.parallel = s.parallel
  timer : t.timer = s.timer
  userPending : t.userPending = s.userPending
  script : t.script = s.script

/-! ## How an instruction ends -/

/-- The instruction completes with the value `v` for `rd`: a later read of `rd` gives `v`, or 0 where `rd` is `$0`; the
next instruction is the one after it; nothing else has changed. -/
structure Completes (rd : RegNum) (v : Word) (s t : State) : Prop where
  result : t.reg rd = if rd = 0 then 0 else v
  others : SameRegistersBut rd s t
  pc : t.pc = s.pc + 1
  special : SameSpecial s t
  memory : SameMemory s t
  devices : SameDevices s t

/-- The instruction ends at `target` and nothing but the program counter has changed. -/
structure Jumps (target : Addr) (s t : State) : Prop where
  pc : t.pc = target
  registers : SameRegisters s t
  special : SameSpecial s t
  memory : SameMemory s t
  devices : SameDevices s t

/-- The instruction ends at `target` with the address after it, zero-extended, in `$ra`, and nothing else has changed. -/
structure Links (target : Addr) (s t : State) : Prop where
  pc : t.pc = target
  link : t.reg 15 = (s.pc + 1).setWidth 32
  others : SameRegistersBut 15 s t
  special : SameSpecial s t
  memory : SameMemory s t
  devices : SameDevices s t

/-- The bit of `$estat` that stands for an internal exception (spec/60_exceptions.md R265). -/
def InternalCause.bit : InternalCause → Nat
  | .arithmetic => 15
  | .breakpoint => 14
  | .syscall => 13
  | .generalProtection => 12

/-- Whether interrupt line `i` is enabled: IE is 1 and bit `4 + i` of `$cctrl` is 1 (spec/60_exceptions.md R270). -/
def State.lineEnabled (s : State) (i : Nat) : Bool := s.ie && s.cctrl.getLsbD (4 + i)

/-- The cause word `e` of an entry from the state `s` (spec/60_exceptions.md R277): no bit but a cause bit is 1; the bits of
the internal exceptions are those of `c`; the bit of a line not asserted is 0, of a line asserted and enabled 1. -/
structure CauseWord (c : Option InternalCause) (s : State) (e : Word) : Prop where
  low : e.extractLsb' 0 4 = 0
  high : e.extractLsb' 16 16 = 0
  internal : ∀ k : InternalCause, e.getLsbD k.bit = decide (c = some k)
  idle : ∀ i : Nat, i < 8 → s.lines.getLsbD i = false → e.getLsbD (4 + i) = false
  taken : ∀ i : Nat, i < 8 → s.lines.getLsbD i = true → s.lineEnabled i = true → e.getLsbD (4 + i) = true

/-- The entry procedure of spec/60_exceptions.md R275 has been run from `s`, with the return address `ra`. The general
registers are not spoken of here, but that `$ers` holds `$13`. -/
structure Entered (c : Option InternalCause) (ra : Addr) (s t : State) : Prop where
  params : t.params = s.params
  oie : t.oie = s.ie
  ie : t.ie = false
  oku : t.oku = s.ku
  ku : t.ku = true
  mask : t.mask = s.mask
  estat : CauseWord c s t.estat
  ers : t.ers = t.reg 13
  ear : t.ear = ra.setWidth 32
  pc : t.pc = s.evec.extractLsb' 0 20
  evec : t.evec = s.evec
  icount : t.icount = s.icount
  ccount : t.ccount = s.ccount
  ptable : t.ptable = s.ptable
  rbase : t.rbase = s.rbase
  memory : SameMemory s t
  devices : SameDevices s t

/-- An exception is taken from `s` and every general register is as it was. -/
def Takes (c : Option InternalCause) (ra : Addr) (s t : State) : Prop :=
  Entered c ra s t ∧ SameRegisters s t

/-- An exception is taken from `s` by an instruction that leaves its destination `rd` open: parameter `FAULT_RD`
(spec/40_arithmetic.md R156, spec/44_loadstore.md R234). -/
def TakesSparing (rd : RegNum) (c : InternalCause) (ra : Addr) (s t : State) : Prop :=
  Entered (some c) ra s t ∧ SameRegistersBut rd s t

/-- The instructions that can raise the Arithmetic Exception (spec/60_exceptions.md R261). -/
def raisesArithmetic : Instr → Bool
  | .add .. | .addi .. | .addu .. | .addui .. | .sub .. | .subi .. | .subu .. | .subui .. => true
  | .mult .. | .multi .. | .multu .. | .multui .. | .div .. | .divi .. | .divu .. | .divui .. => true
  | .rem .. | .remi .. | .remu .. | .remui .. => true
  | _ => false

/-- The word `w` is the encoding of `i`, and `i` run from `s` ends in a next state `t` of which `post s t` holds. -/
def Runs (w : Word) (i : Instr) (s : State) (post : State → State → Prop) : Prop :=
  decode w = .instr i ∧ ∃ t, exec i s = .next t ∧ post s t

/-- The store of a device register: the next instruction follows, the devices are those of `u`, and the CPU's own state
and memory are as before. -/
structure Stores (u s t : State) : Prop where
  pc : t.pc = s.pc + 1
  registers : SameRegisters s t
  special : SameSpecial s t
  memory : SameMemory s t
  devices : SameDevices u t

/-- An arithmetic instruction `i` of word `w`, destination `rd` and exact result `r`, signed: it completes with `r` where
`r` fits in 32 bits, and takes the Arithmetic Exception where it does not (spec/40_arithmetic.md R153, R156). -/
def SignedArithmetic (w : Word) (i : Instr) (rd : RegNum) (r : Int) (s : State) : Prop :=
  (-2 ^ 31 ≤ r ∧ r ≤ 2 ^ 31 - 1 → ∃ v : Word, v.toInt = r ∧ Runs w i s (Completes rd v)) ∧
  (r < -2 ^ 31 ∨ 2 ^ 31 - 1 < r → Runs w i s (TakesSparing rd .arithmetic (s.pc + 1)))

/-- The same of an unsigned instruction (spec/40_arithmetic.md R154, R156). -/
def UnsignedArithmetic (w : Word) (i : Instr) (rd : RegNum) (r : Int) (s : State) : Prop :=
  (0 ≤ r ∧ r ≤ 2 ^ 32 - 1 → ∃ v : Word, (v.toNat : Int) = r ∧ Runs w i s (Completes rd v)) ∧
  (r < 0 ∨ 2 ^ 32 - 1 < r → Runs w i s (TakesSparing rd .arithmetic (s.pc + 1)))

/-- A division or remainder instruction with divisor `b` and, where `b` is not 0, the result `v`: it takes the Arithmetic
Exception where `b` is 0 (spec/40_arithmetic.md R155, R156). -/
def Divides (w : Word) (i : Instr) (rd : RegNum) (b v : Word) (s : State) : Prop :=
  (b ≠ 0 → Runs w i s (Completes rd v)) ∧
  (b = 0 → Runs w i s (TakesSparing rd .arithmetic (s.pc + 1)))

/-- The protection check lets the access at `a` through: kernel mode, or the table is in RAM or ROM and its bit is 1
(spec/20_memory.md R70, R74). -/
def State.mayAccess (s : State) (a : Addr) : Prop :=
  s.ku = true ∨ s.tableInMemory = true ∧ s.allowed a = true

/-- The base address of a serial port (spec/60_exceptions.md R310). -/
def SerialPortId.base : SerialPortId → Addr
  | .first => 0x70000
  | .second => 0x71000

/-- The address `lw` and `sw` access (spec/44_loadstore.md R233, spec/20_memory.md R70). -/
def State.accessed (s : State) (rs : RegNum) (offset : BitVec 20) : Addr :=
  s.based (effectiveAddress (s.reg rs) offset)

/-- Two states that differ in memory only, and there only in words the protection table of the first forbids; the table's
own words are the same in both. -/
structure AgreeWhereAllowed (s t : State) : Prop where
  rest : t = { s with mem := t.mem }
  table : ∀ w : Nat, w < 32 → t.readWord (s.table + BitVec.ofNat 20 w) = s.readWord (s.table + BitVec.ofNat 20 w)
  words : ∀ a : Addr, s.allowed a = true → t.readWord a = s.readWord a

/-- Two outcomes that differ in nothing but words of memory outside the set `shown`. -/
def SameOutcome (shown : Addr → Prop) : Result → Result → Prop
  | .next s, .next t => t = { s with mem := t.mem } ∧ ∀ a, shown a → t.readWord a = s.readWord a
  | .fault f, .fault g => f = g
  | .refused q, .refused r => q = r
  | _, _ => False

/-- `y` follows `x` by one step that presses no RESET and executes no `sw` to the word at `a`. -/
structure Spares (a : Addr) (x y : State) : Prop where
  next : step x = .next y
  noReset : .resetButton ∉ x.boundaryEvents
  noStore : ∀ (w : Word) (u : State) (rd rs : RegNum) (offset : BitVec 20), x.deliver.interruptPending = false →
    x.deliver.fetch = .done w u → decode w = .instr (.sw rd rs offset) → u.accessed rs offset ≠ a

/-- `t` follows `s` by any number of steps, none of which stores to the word at `a` or presses RESET. -/
def Later (a : Addr) : State → State → Prop := Relation.ReflTransGen (Spares a)

/-- `t` follows `s` by `n` steps. -/
def Steps : Nat → State → State → Prop
  | 0, s, t => t = s
  | n + 1, s, t => ∃ u, step s = .next u ∧ Steps n u t

/-! ## The invariant -/

/-- The key of a byte of RAM or ROM (spec/20_memory.md R63). -/
def inRamOrRom (key : Nat) : Prop := key / 4 < 0x4000 ∨ (0x80000 ≤ key / 4 ∧ key / 4 < 0x88000)

/-- What every step keeps. -/
structure State.Inv (s : State) : Prop where
  /-- Memory is in its canonical form. [log 1] -/
  canonical : s.mem.wf = true
  /-- Memory lists bytes of RAM and ROM only (spec/20_memory.md R63). -/
  mapped : ∀ c ∈ s.mem, inRamOrRom c.1
  /-- `$rbase` is 0 (spec/20_memory.md R71). -/
  base : s.rbase = 0
  /-- The slot of `$0` holds 0 (spec/10_state.md R21). -/
  zero : s.regs[0] = 0
  /-- `$estat` has no bit outside the cause bits (spec/60_exceptions.md R277). -/
  causes : s.estat.extractLsb' 0 4 = 0 ∧ s.estat.extractLsb' 16 16 = 0
  /-- `$estat` names at most one internal exception (spec/60_exceptions.md R277). -/
  oneCause : ∀ j k : InternalCause, s.estat.getLsbD j.bit = true → s.estat.getLsbD k.bit = true → j = k
  /-- The prescaler counts down from 1302 (spec/60_exceptions.md R336). -/
  prescaler : 1 ≤ s.timer.prescaler.toNat ∧ s.timer.prescaler.toNat ≤ 1302

/-! ## The start of a program -/

/-- What the monitor and the loaded image settle about the start of a program and the source does not state: the entry
point, the parameter `LAUNCH_SP`, the end of the loaded image, the address of the monitor's own handler, and the interrupt
lines that handler serves (spec/70_reset_and_hazards.md R357, R358). -/
structure Launch where
  main : Addr
  sp : Addr
  imageEnd : Addr
  handler : Addr
  served : BitVec 8
  deriving DecidableEq, Repr

/-- What the spec says of the state in which the monitor starts a program (spec/70_reset_and_hazards.md R358,
decision D26). [log 31] -/
structure State.AtLaunch (l : Launch) (s : State) : Prop where
  pc : s.pc = l.main
  mainInImage : l.main.toNat < l.imageEnd.toNat
  ku : s.ku = true
  /-- No line is asserted and enabled that the monitor's handler does not serve. -/
  lines : s.lines &&& s.enabledLines &&& ~~~l.served = 0
  /-- `$evec` holds the address of the monitor's handler, which is ROM content. -/
  evec : s.evec = l.handler.setWidth 32
  handlerInRom : 0x80000 ≤ l.handler.toNat ∧ l.handler.toNat < 0x88000
  base : s.rbase = 0
  stack : s.reg 14 = l.sp.setWidth 32
  /-- The words from the end of the image up to the stack pointer are free words of RAM, and there are some. -/
  stackInRam : l.imageEnd.toNat < l.sp.toNat ∧ l.sp.toNat < 0x4000
  table : 0x3800 ≤ s.table.toNat ∧ s.table.toNat + 32 ≤ 0x4000
  tableAboveStack : l.sp.toNat ≤ s.table.toNat
  tableOpen : ∀ w : Nat, w < 32 → s.readWord (s.table + BitVec.ofNat 20 w) = 0xFFFFFFFF
  quiet : ∀ p : SerialPortId, (s.serial p).control.getLsbD s.params.serial.rxie = false ∧
    (s.serial p).control.getLsbD s.params.serial.txie = false ∧
    (s.serial p).control.getLsbD s.params.serial.errie = false
  hexDecode : s.parallel.control.getLsbD s.params.parallel.hex = true

end Sys2Proof.Machine
end

