-- ==== Sys2Proof/WellFormed.lean ====
section
/-! DEFINITION. Well-formed instructions. Every operand field has the width of its encoding, so every instruction has a
word; what is checked here is that the spec gives the instruction a meaning: a special register operand is one of the
nine named ones, which is all the assembler can write (spec/10_state.md R31, R46), and `jalr` does not name `$ra`
(spec/43_branch.md R214). -/

namespace Sys2Proof

/-- An instruction the spec gives a meaning to, in the mode that may run it, under the numbers of the special registers. -/
def Instr.wellFormed (p : Machine.SprNumbers) : Instr → Bool
  | .movgs sd _ => (p.named sd).isSome
  | .movsg _ ss => (p.named ss).isSome
  | .jalr rs => rs != 15
  | _ => true

end Sys2Proof
end

