-- ==== Sys2Proof/Certificates/Slice0/Obligations.lean ====
section
/-! DEFINITION. The statements for the provers. Each says which rule of spec/ it formalises, or that it is derived. A word is
written as the fields of its rule's encoding line, from the most significant on. -/

open Sys2Proof Sys2Proof.Machine

/-! ## Encoding -/

/-- The word of every instruction decodes to that instruction (spec/30_encoding.md R93 to R103, R108). -/
def Obligations.DecodeOfEncode : Prop :=
  ∀ i : Instr, decode (encode i) = .instr i

/-- A word that decodes to an instruction is the word of that instruction, so no instruction has two words
(spec/30_encoding.md R106, R108). -/
def Obligations.EncodeOfDecode : Prop :=
  ∀ (w : Word) (i : Instr), decode w = .instr i → encode i = w

/-- The unassigned words are those with opcode 1101, 1110 or 1111, and those with opcode 0010 or 0011 and `Func` 1111; the
reserved words are the others that are no instruction's word (spec/30_encoding.md R104, R106). -/
def Obligations.UnassignedAndReservedWords : Prop :=
  ∀ w : Word,
    let unassigned := 13 ≤ w.toNat / 2 ^ 28 ∨
      (w.toNat / 2 ^ 28 = 2 ∨ w.toNat / 2 ^ 28 = 3) ∧ w.toNat / 2 ^ 16 % 16 = 15
    (decode w = .unassigned ↔ unassigned) ∧
    (decode w = .reserved ↔ ¬unassigned ∧ ∀ i : Instr, encode i ≠ w)

/-- Words that the manual prints, and words of the spec's examples, decode to the instructions printed beside them
(spec/95_test_vectors.md S1; spec/30_encoding.md R107). -/
def Obligations.PrintedWordsDecode : Prop :=
  decode 0x81073000 = .instr (.lw 1 0 0x73000) ∧ decode 0x9107300A = .instr (.sw 1 0 0x7300A) ∧
  decode 0x121BF000 = .instr (.andi 2 1 0xF000) ∧ decode 0x122C000C = .instr (.srli 2 2 0x000C) ∧
  decode 0x1A000001 = .instr (.addi 10 0 1) ∧ decode 0x40000000 = .instr (.j 0) ∧
  decode 0x00000000 = .instr (.add 0 0 0) ∧ decode 0x200E0000 = .instr .rfe

/-! ## The step -/

/-- Where no interrupt is taken and the fetch at the program counter gives a word that decodes to `i`, the step is `i` run
from the state after the fetch, which is the state after the device events of the boundary but for what a fetch from a
device register changes (spec/60_exceptions.md R272). -/
def Obligations.StepRunsDecodedInstruction : Prop :=
  ∀ (s t : State) (w : Word) (i : Instr),
    s.deliver.interruptPending = false → s.deliver.fetch = .done w t → decode w = .instr i → step s = exec i t

/-- In RAM or ROM, where the protection check lets the fetch through, the step runs the instruction in the word at the
program counter from the state after the device events (spec/20_memory.md R70, R74; spec/60_exceptions.md R272). -/
def Obligations.StepRunsWordInMemory : Prop :=
  ∀ (s : State) (i : Instr),
    let u := s.deliver
    let a := u.based u.pc
    u.interruptPending = false → u.mayAccess a → (a.toNat < 0x4000 ∨ 0x80000 ≤ a.toNat ∧ a.toNat < 0x88000) →
    decode (u.readWord a) = .instr i → step s = exec i u

/-- What ends a step before an instruction is executed, where no interrupt is taken: a fetch that the protection table
forbids in user mode takes the General Protection Fault (decision D15); so does an unassigned word in RAM or ROM (decision
D9); a reserved word has no meaning (decision D8). The entry is the one of every exception, and the address after the
instruction is saved (spec/60_exceptions.md R275, R276, R277, decision D4) (spec/20_memory.md R74; spec/30_encoding.md
R105, R106). -/
def Obligations.StepWithoutInstruction : Prop :=
  ∀ s : State,
    let u := s.deliver
    let a := u.based u.pc
    let faults := ∃ t, step s = .next t ∧ Takes (some .generalProtection) (u.pc + 1) u t
    u.interruptPending = false →
    (u.ku = false → u.tableInMemory = true → u.allowed a = false → faults) ∧
    (u.mayAccess a → (a.toNat < 0x4000 ∨ 0x80000 ≤ a.toNat ∧ a.toNat < 0x88000) →
      (decode (u.readWord a) = .unassigned → faults) ∧
      (decode (u.readWord a) = .reserved → step s = .refused (.reservedEncoding (u.readWord a))))

/-- Where the interrupt condition holds, the step takes the interrupt: the address of the instruction not yet executed is
saved, and no instruction is executed (spec/60_exceptions.md R272, R276, R277, decisions D12, D4, D13). -/
def Obligations.PendingInterruptIsTaken : Prop :=
  ∀ s : State, s.deliver.interruptPending = true →
    ∃ t, step s = .next t ∧ Takes none s.deliver.pc s.deliver t

/-- The interrupt condition holds when some line is both asserted and enabled (spec/60_exceptions.md R270). -/
def Obligations.InterruptCondition : Prop :=
  ∀ s : State,
    s.interruptPending = true ↔
      ∃ i : Nat, i < 8 ∧ s.lines.getLsbD i = true ∧ s.ie = true ∧ s.cctrl.getLsbD (4 + i) = true

/-- A program interrupted and returned to at once by `rfe` goes on as it was: every general register, the program counter,
IE, KU, the mask, memory and the devices are as they were when the interrupt was taken, at the boundary of the step
(spec/60_exceptions.md R275, R276, R280; spec/45_special.md R245; the saved address is decision D4, and the use of the low
20 bits of `$ear` decision D27). -/
def Obligations.InterruptThenReturn : Prop :=
  ∀ s : State, s.deliver.interruptPending = true →
    ∃ t u, step s = .next t ∧ exec .rfe t = .next u ∧
      SameRegisters s.deliver u ∧ u.pc = s.deliver.pc ∧ u.ie = s.deliver.ie ∧ u.ku = s.deliver.ku ∧
      u.mask = s.deliver.mask ∧ SameMemory s.deliver u ∧ SameDevices s.deliver u

/-! ## Taking an exception and returning from one -/

/-- `break` and `syscall` take their exceptions, in both modes, and the address after the instruction is saved
(spec/45_special.md R243, R244; spec/60_exceptions.md R275, R276, R277, decisions D4, D13). -/
def Obligations.BreakAndSyscall : Prop :=
  ∀ s : State,
    Runs (0x2#4 ++ 0#4 ++ 0#4 ++ 0xC#4 ++ 0#12 ++ 0#4) .brk s (Takes (some .breakpoint) (s.pc + 1)) ∧
    Runs (0x2#4 ++ 0#4 ++ 0#4 ++ 0xD#4 ++ 0#12 ++ 0#4) .syscall s (Takes (some .syscall) (s.pc + 1))

/-- `rfe` in kernel mode: IE and KU are restored from OIE and OKU, `$13` from `$ers`, and the next instruction is the one at
the low 20 bits of `$ear` (decision D27); nothing else changes (spec/45_special.md R245, the kernel mode premise and the
frame with it; spec/60_exceptions.md R280). -/
def Obligations.ReturnFromException : Prop :=
  ∀ s : State, s.ku = true →
    Runs (0x2#4 ++ 0#4 ++ 0#4 ++ 0xE#4 ++ 0#12 ++ 0#4) .rfe s fun s t =>
      t.ie = s.oie ∧ t.ku = s.oku ∧ t.reg 13 = s.ers ∧ t.pc = s.ear.extractLsb' 0 20 ∧
      t.oie = s.oie ∧ t.oku = s.oku ∧ t.mask = s.mask ∧ SameRegistersBut 13 s t ∧
      SameSpecial { s with cctrl := t.cctrl } t ∧ SameMemory s t ∧ SameDevices s t

/-- `movgs`, `movsg` and `rfe` in user mode take the General Protection Fault and do nothing else, whatever special register
they name (spec/45_special.md R246, derived there). -/
def Obligations.PrivilegedInUserMode : Prop :=
  ∀ (s : State) (rd rs : RegNum), s.ku = false →
    (∃ t, exec (.movgs rd rs) s = .next t ∧ Takes (some .generalProtection) (s.pc + 1) s t) ∧
    (∃ t, exec (.movsg rd rs) s = .next t ∧ Takes (some .generalProtection) (s.pc + 1) s t) ∧
    (∃ t, exec .rfe s = .next t ∧ Takes (some .generalProtection) (s.pc + 1) s t)

/-- Only its instructions raise an internal exception: where an instruction changes `$estat`, bit 14 is set by `break`
alone, bit 13 by `syscall` alone, bit 12 by `movgs`, `movsg`, `rfe`, `lw` or `sw` in user mode, and bit 15 by
the arithmetic instructions that R261 lists (spec/60_exceptions.md R261 to R264). -/
def Obligations.OnlyItsInstructionRaises : Prop :=
  ∀ (i : Instr) (s t : State), exec i s = .next t → t.estat ≠ s.estat →
    (t.estat.getLsbD 14 = true → i = .brk) ∧
    (t.estat.getLsbD 13 = true → i = .syscall) ∧
    (t.estat.getLsbD 12 = true → s.ku = false ∧
      (i = .rfe ∨ (∃ a b, i = .movgs a b) ∨ (∃ a b, i = .movsg a b) ∨ (∃ a b o, i = .lw a b o) ∨ ∃ a b o, i = .sw a b o)) ∧
    (t.estat.getLsbD 15 = true → raisesArithmetic i = true)

/-! ## Special registers -/

/-- `movgs` in kernel mode, to each special register it can write: all 32 bits of `$evec`, `$ear`, `$ers` and `$ptable`, the
low 12 bits of `$cctrl`, zero to `$rbase`; nothing else changes but the program counter. The numbers of the special
registers are parameters (spec/45_special.md R241, with decisions D16, D21; spec/00_scope.md R7). -/
def Obligations.MoveToSpecial : Prop :=
  ∀ (s : State) (rs : RegNum),
    let n := s.params.spr
    let writes := fun (r : RegNum) (t : State) =>
      Runs (0x3#4 ++ r ++ rs ++ 0xC#4 ++ 0#16) (.movgs r rs) s fun s u => u = { t with pc := s.pc + 1 }
    s.ku = true →
    writes n.evec { s with evec := s.reg rs } ∧ writes n.ear { s with ear := s.reg rs } ∧
    writes n.ers { s with ers := s.reg rs } ∧ writes n.ptable { s with ptable := s.reg rs } ∧
    writes n.cctrl { s with cctrl := (s.reg rs).extractLsb' 0 12 } ∧
    (s.reg rs = 0 → writes n.rbase { s with rbase := 0 })

/-- Where the spec refuses a `movgs` or `movsg` in kernel mode, the model stops by name: `movgs` to `$estat`, `$icount`,
`$ccount`, to `$rbase` with a value that is not zero, and either with the number of no named special register
(spec/10_state.md R40, R44, R45, R46, R48, decisions D21, D22, D20, D16; the numbers are parameters, spec/00_scope.md
R7). -/
def Obligations.SpecialMovesWithoutMeaning : Prop :=
  ∀ (s : State) (r : RegNum),
    let n := s.params.spr
    s.ku = true →
    exec (.movgs n.estat r) s = .refused (.unwritableSpecialRegister .estat) ∧
    exec (.movgs n.icount r) s = .refused (.unwritableSpecialRegister .icount) ∧
    exec (.movgs n.ccount r) s = .refused (.unwritableSpecialRegister .ccount) ∧
    (s.reg r ≠ 0 → exec (.movgs n.rbase r) s = .refused (.nonZeroUserBase (s.reg r))) ∧
    ∀ k : RegNum, k ∉ [n.cctrl, n.estat, n.icount, n.ccount, n.evec, n.ear, n.ers, n.ptable, n.rbase] →
      exec (.movgs k r) s = .refused (.unnamedSpecialRegister k) ∧
      exec (.movsg r k) s = .refused (.unnamedSpecialRegister k)

/-- `movsg` in kernel mode, from each special register: the stored value; of `$cctrl` the stored low 12 bits under any upper
bits; of `$icount` and `$ccount` any value. That this value is then kept, as the register's last read value, is the
model's choice [log 15]; the spec gives a read no side effect (spec/45_special.md R242, with decisions D21, D22; the
numbers are parameters, spec/00_scope.md R7). -/
def Obligations.MoveFromSpecial : Prop :=
  ∀ (s : State) (rd : RegNum),
    let n := s.params.spr
    let reads := fun (r : RegNum) (post : State → State → Prop) =>
      Runs (0x3#4 ++ rd ++ r ++ 0xD#4 ++ 0#16) (.movsg rd r) s post
    s.ku = true →
    reads n.estat (Completes rd s.estat) ∧ reads n.evec (Completes rd s.evec) ∧ reads n.ear (Completes rd s.ear) ∧
    reads n.ers (Completes rd s.ers) ∧ reads n.ptable (Completes rd s.ptable) ∧ reads n.rbase (Completes rd s.rbase) ∧
    (∃ v : Word, v.extractLsb' 0 12 = s.cctrl ∧ reads n.cctrl (Completes rd v)) ∧
    (∃ v : Word, reads n.icount fun s t => t.icount = v ∧ Completes rd v { s with icount := v } t) ∧
    (∃ v : Word, reads n.ccount fun s t => t.ccount = v ∧ Completes rd v { s with ccount := v } t)

/-- Reading `$cctrl` into a register other than `$0` and writing that register back leaves bits 11:0 of `$cctrl`, the bits
it stores, as they were. That bits 31:12 are not stored and read as free bits is decision D21 [log 14]; the source `$0`,
which writes 0, is in the statement MoveToSpecial (spec/10_state.md R38; spec/45_special.md R241, R242; the number is a
parameter, spec/00_scope.md R7). -/
def Obligations.ControlReadThenWrittenBack : Prop :=
  ∀ (s : State) (r : RegNum), s.ku = true → r ≠ 0 →
    ∃ t u, exec (.movsg r s.params.spr.cctrl) s = .next t ∧ exec (.movgs s.params.spr.cctrl r) t = .next u ∧
      SameSpecial s u ∧ SameRegistersBut r s u

/-! ## Arithmetic -/

/-- `add`, `sub`, `mult` and their immediate forms: the exact result where it fits in 32 bits as a signed number, else the
Arithmetic Exception with the destination open and the address after the instruction saved
(spec/40_arithmetic.md R131, R132, R135, R136, R139, R140, R153; R156 and R276 are decisions D10 and D4;
what `$ers` saves where the destination is `$13` is [log 13]). -/
def Obligations.SignedAddSubtractMultiply : Prop :=
  ∀ (s : State) (rd rs rt : RegNum) (imm : BitVec 16),
    let a := (s.reg rs).toInt
    let b := (s.reg rt).toInt
    let c := (imm.signExtend 32).toInt
    SignedArithmetic (0x0#4 ++ rd ++ rs ++ 0x0#4 ++ 0#12 ++ rt) (.add rd rs rt) rd (a + b) s ∧
    SignedArithmetic (0x0#4 ++ rd ++ rs ++ 0x2#4 ++ 0#12 ++ rt) (.sub rd rs rt) rd (a - b) s ∧
    SignedArithmetic (0x0#4 ++ rd ++ rs ++ 0x4#4 ++ 0#12 ++ rt) (.mult rd rs rt) rd (a * b) s ∧
    SignedArithmetic (0x1#4 ++ rd ++ rs ++ 0x0#4 ++ imm) (.addi rd rs imm) rd (a + c) s ∧
    SignedArithmetic (0x1#4 ++ rd ++ rs ++ 0x2#4 ++ imm) (.subi rd rs imm) rd (a - c) s ∧
    SignedArithmetic (0x1#4 ++ rd ++ rs ++ 0x4#4 ++ imm) (.multi rd rs imm) rd (a * c) s

/-- `addu`, `subu`, `multu` and their immediate forms: the exact result where it fits in 32 bits as an unsigned number, else
the Arithmetic Exception, which a subtraction takes where it borrows (spec/40_arithmetic.md R133, R134, R137, R138, R141,
R142, R154, decision D30; R156 and R276 are decisions D10 and D4;
what `$ers` saves where the destination is `$13` is [log 13]). -/
def Obligations.UnsignedAddSubtractMultiply : Prop :=
  ∀ (s : State) (rd rs rt : RegNum) (imm : BitVec 16),
    let a : Int := (s.reg rs).toNat
    let b : Int := (s.reg rt).toNat
    let c : Int := imm.toNat
    UnsignedArithmetic (0x0#4 ++ rd ++ rs ++ 0x1#4 ++ 0#12 ++ rt) (.addu rd rs rt) rd (a + b) s ∧
    UnsignedArithmetic (0x0#4 ++ rd ++ rs ++ 0x3#4 ++ 0#12 ++ rt) (.subu rd rs rt) rd (a - b) s ∧
    UnsignedArithmetic (0x0#4 ++ rd ++ rs ++ 0x5#4 ++ 0#12 ++ rt) (.multu rd rs rt) rd (a * b) s ∧
    UnsignedArithmetic (0x1#4 ++ rd ++ rs ++ 0x1#4 ++ imm) (.addui rd rs imm) rd (a + c) s ∧
    UnsignedArithmetic (0x1#4 ++ rd ++ rs ++ 0x3#4 ++ imm) (.subui rd rs imm) rd (a - c) s ∧
    UnsignedArithmetic (0x1#4 ++ rd ++ rs ++ 0x5#4 ++ imm) (.multui rd rs imm) rd (a * c) s

/-- `divu`, `remu` and their immediate forms: the floor of the quotient and what is left, or the Arithmetic Exception on a
divisor of zero (spec/40_arithmetic.md R145, R146, R149, R150, R155; R156 and R276 are decisions D10 and D4;
what `$ers` saves where the destination is `$13` is [log 13]). -/
def Obligations.UnsignedDivideRemainder : Prop :=
  ∀ (s : State) (rd rs rt : RegNum) (imm : BitVec 16),
    let a := (s.reg rs).toNat
    let b := (s.reg rt).toNat
    let c := imm.toNat
    (∃ v : Word, (b ≠ 0 → v.toNat * b ≤ a ∧ a < (v.toNat + 1) * b) ∧
      Divides (0x0#4 ++ rd ++ rs ++ 0x7#4 ++ 0#12 ++ rt) (.divu rd rs rt) rd (s.reg rt) v s) ∧
    (∃ v : Word, (b ≠ 0 → v.toNat < b ∧ ∃ q : Nat, a = q * b + v.toNat) ∧
      Divides (0x0#4 ++ rd ++ rs ++ 0x9#4 ++ 0#12 ++ rt) (.remu rd rs rt) rd (s.reg rt) v s) ∧
    (∃ v : Word, (c ≠ 0 → v.toNat * c ≤ a ∧ a < (v.toNat + 1) * c) ∧
      Divides (0x1#4 ++ rd ++ rs ++ 0x7#4 ++ imm) (.divui rd rs imm) rd (imm.setWidth 32) v s) ∧
    (∃ v : Word, (c ≠ 0 → v.toNat < c ∧ ∃ q : Nat, a = q * c + v.toNat) ∧
      Divides (0x1#4 ++ rd ++ rs ++ 0x9#4 ++ imm) (.remui rd rs imm) rd (imm.setWidth 32) v s)

/-- `div`, `rem` and their immediate forms: the Arithmetic Exception on a divisor of zero; otherwise a value that is the floor
of the quotient, or what is left, where the dividend is not negative and the divisor positive, and is open elsewhere
(spec/40_arithmetic.md R143, R144, R147, R148, R155, decision D11; R156 and R276 are decisions D10 and D4;
what `$ers` saves where the destination is `$13` is [log 13]). -/
def Obligations.SignedDivideRemainder : Prop :=
  ∀ (s : State) (rd rs rt : RegNum) (imm : BitVec 16),
    let a := (s.reg rs).toInt
    let b := (s.reg rt).toInt
    let c := (imm.signExtend 32).toInt
    (∃ v : Word, (0 ≤ a → 0 < b → v.toInt * b ≤ a ∧ a < (v.toInt + 1) * b) ∧
      Divides (0x0#4 ++ rd ++ rs ++ 0x6#4 ++ 0#12 ++ rt) (.div rd rs rt) rd (s.reg rt) v s) ∧
    (∃ v : Word, (0 ≤ a → 0 < b → 0 ≤ v.toInt ∧ v.toInt < b ∧ ∃ q : Int, a = q * b + v.toInt) ∧
      Divides (0x0#4 ++ rd ++ rs ++ 0x8#4 ++ 0#12 ++ rt) (.rem rd rs rt) rd (s.reg rt) v s) ∧
    (∃ v : Word, (0 ≤ a → 0 < c → v.toInt * c ≤ a ∧ a < (v.toInt + 1) * c) ∧
      Divides (0x1#4 ++ rd ++ rs ++ 0x6#4 ++ imm) (.divi rd rs imm) rd (imm.signExtend 32) v s) ∧
    (∃ v : Word, (0 ≤ a → 0 < c → 0 ≤ v.toInt ∧ v.toInt < c ∧ ∃ q : Int, a = q * c + v.toInt) ∧
      Divides (0x1#4 ++ rd ++ rs ++ 0x8#4 ++ imm) (.remi rd rs imm) rd (imm.signExtend 32) v s)

/-- `la` puts its zero-extended 20-bit field into its destination and accesses no memory (spec/40_arithmetic.md R152). -/
def Obligations.LoadAddress : Prop :=
  ∀ (s : State) (rd : RegNum) (addr : Addr),
    ∃ v : Word, v.toNat = addr.toNat ∧ Runs (0xC#4 ++ rd ++ 0#4 ++ addr) (.la rd addr) s (Completes rd v)

/-- `lhi` puts its immediate into the upper half of its destination and clears the lower half, and `lhi` followed by `ori`
builds any constant (spec/40_arithmetic.md R151, the second half derived there). -/
def Obligations.LoadHigh : Prop :=
  ∀ (s : State) (rd : RegNum) (hi lo : BitVec 16),
    Runs (0x3#4 ++ rd ++ 0#4 ++ 0xE#4 ++ hi) (.lhi rd hi) s (Completes rd (hi ++ 0#16)) ∧
    ∃ t u, exec (.lhi rd hi) s = .next t ∧ exec (.ori rd rd lo) t = .next u ∧
      u.reg rd = (if rd = 0 then 0 else hi ++ lo) ∧ SameRegistersBut rd s u ∧ SameSpecial s u ∧
      SameMemory s u ∧ SameDevices s u

/-! ## Bitwise and shifts -/

/-- The six logical instructions: each bit of the result is the and, the or or the exclusive or of that bit of the two
operands, the immediate zero-extended (spec/41_bitwise.md R161 to R166, R174). -/
def Obligations.LogicalInstructions : Prop :=
  ∀ (s : State) (rd rs rt : RegNum) (imm : BitVec 16),
    (∃ v : Word, (∀ i, v.getLsbD i = ((s.reg rs).getLsbD i && (s.reg rt).getLsbD i)) ∧
      Runs (0x0#4 ++ rd ++ rs ++ 0xB#4 ++ 0#12 ++ rt) (.and rd rs rt) s (Completes rd v)) ∧
    (∃ v : Word, (∀ i, v.getLsbD i = ((s.reg rs).getLsbD i || (s.reg rt).getLsbD i)) ∧
      Runs (0x0#4 ++ rd ++ rs ++ 0xD#4 ++ 0#12 ++ rt) (.or rd rs rt) s (Completes rd v)) ∧
    (∃ v : Word, (∀ i, v.getLsbD i = ((s.reg rs).getLsbD i ^^ (s.reg rt).getLsbD i)) ∧
      Runs (0x0#4 ++ rd ++ rs ++ 0xF#4 ++ 0#12 ++ rt) (.xor rd rs rt) s (Completes rd v)) ∧
    (∃ v : Word, (∀ i, v.getLsbD i = ((s.reg rs).getLsbD i && imm.getLsbD i)) ∧
      Runs (0x1#4 ++ rd ++ rs ++ 0xB#4 ++ imm) (.andi rd rs imm) s (Completes rd v)) ∧
    (∃ v : Word, (∀ i, v.getLsbD i = ((s.reg rs).getLsbD i || imm.getLsbD i)) ∧
      Runs (0x1#4 ++ rd ++ rs ++ 0xD#4 ++ imm) (.ori rd rs imm) s (Completes rd v)) ∧
    (∃ v : Word, (∀ i, v.getLsbD i = ((s.reg rs).getLsbD i ^^ imm.getLsbD i)) ∧
      Runs (0x1#4 ++ rd ++ rs ++ 0xF#4 ++ imm) (.xori rd rs imm) s (Completes rd v))

/-- The six shifts: the count is the low five bits of the second operand; left shifts multiply and keep the low 32 bits,
logical right shifts divide the unsigned reading, arithmetic ones the signed reading, rounding down
(spec/41_bitwise.md R167 to R173). -/
def Obligations.Shifts : Prop :=
  ∀ (s : State) (rd rs rt : RegNum) (imm : BitVec 16),
    let n := (s.reg rt).toNat % 32
    let m := imm.toNat % 32
    (∃ v : Word, v.toNat = (s.reg rs).toNat * 2 ^ n % 2 ^ 32 ∧
      Runs (0x0#4 ++ rd ++ rs ++ 0xA#4 ++ 0#12 ++ rt) (.sll rd rs rt) s (Completes rd v)) ∧
    (∃ v : Word, v.toNat = (s.reg rs).toNat * 2 ^ m % 2 ^ 32 ∧
      Runs (0x1#4 ++ rd ++ rs ++ 0xA#4 ++ imm) (.slli rd rs imm) s (Completes rd v)) ∧
    (∃ v : Word, v.toNat = (s.reg rs).toNat / 2 ^ n ∧
      Runs (0x0#4 ++ rd ++ rs ++ 0xC#4 ++ 0#12 ++ rt) (.srl rd rs rt) s (Completes rd v)) ∧
    (∃ v : Word, v.toNat = (s.reg rs).toNat / 2 ^ m ∧
      Runs (0x1#4 ++ rd ++ rs ++ 0xC#4 ++ imm) (.srli rd rs imm) s (Completes rd v)) ∧
    (∃ v : Word, v.toInt = (s.reg rs).toInt / 2 ^ n ∧
      Runs (0x0#4 ++ rd ++ rs ++ 0xE#4 ++ 0#12 ++ rt) (.sra rd rs rt) s (Completes rd v)) ∧
    (∃ v : Word, v.toInt = (s.reg rs).toInt / 2 ^ m ∧
      Runs (0x1#4 ++ rd ++ rs ++ 0xE#4 ++ imm) (.srai rd rs imm) s (Completes rd v))

/-! ## Tests -/

/-- The register forms of the six signed tests: the destination becomes the whole word 1 where the relation holds of
the signed readings, and 0 where it does not (spec/42_test.md R181, R185, R189, R193, R197, R201, R206). -/
def Obligations.TestsSignedRegisters : Prop :=
  ∀ (s : State) (rd rs rt : RegNum),
    let a := (s.reg rs).toInt
    let b := (s.reg rt).toInt
    Runs (0x2#4 ++ rd ++ rs ++ 0x0#4 ++ 0#12 ++ rt) (.slt rd rs rt) s (Completes rd (if a < b then 1 else 0)) ∧
    Runs (0x2#4 ++ rd ++ rs ++ 0x2#4 ++ 0#12 ++ rt) (.sgt rd rs rt) s (Completes rd (if a > b then 1 else 0)) ∧
    Runs (0x2#4 ++ rd ++ rs ++ 0x4#4 ++ 0#12 ++ rt) (.sle rd rs rt) s (Completes rd (if a ≤ b then 1 else 0)) ∧
    Runs (0x2#4 ++ rd ++ rs ++ 0x6#4 ++ 0#12 ++ rt) (.sge rd rs rt) s (Completes rd (if a ≥ b then 1 else 0)) ∧
    Runs (0x2#4 ++ rd ++ rs ++ 0x8#4 ++ 0#12 ++ rt) (.seq rd rs rt) s (Completes rd (if a = b then 1 else 0)) ∧
    Runs (0x2#4 ++ rd ++ rs ++ 0xA#4 ++ 0#12 ++ rt) (.sne rd rs rt) s (Completes rd (if a ≠ b then 1 else 0))

/-- The immediate forms of the six signed tests: the destination becomes the whole word 1 where the relation holds of
the signed readings, the immediate sign-extended, and 0 where it does not
(spec/42_test.md R182, R186, R190, R194, R198, R202, R206). -/
def Obligations.TestsSignedImmediates : Prop :=
  ∀ (s : State) (rd rs : RegNum) (imm : BitVec 16),
    let a := (s.reg rs).toInt
    let b := (imm.signExtend 32).toInt
    Runs (0x3#4 ++ rd ++ rs ++ 0x0#4 ++ imm) (.slti rd rs imm) s (Completes rd (if a < b then 1 else 0)) ∧
    Runs (0x3#4 ++ rd ++ rs ++ 0x2#4 ++ imm) (.sgti rd rs imm) s (Completes rd (if a > b then 1 else 0)) ∧
    Runs (0x3#4 ++ rd ++ rs ++ 0x4#4 ++ imm) (.slei rd rs imm) s (Completes rd (if a ≤ b then 1 else 0)) ∧
    Runs (0x3#4 ++ rd ++ rs ++ 0x6#4 ++ imm) (.sgei rd rs imm) s (Completes rd (if a ≥ b then 1 else 0)) ∧
    Runs (0x3#4 ++ rd ++ rs ++ 0x8#4 ++ imm) (.seqi rd rs imm) s (Completes rd (if a = b then 1 else 0)) ∧
    Runs (0x3#4 ++ rd ++ rs ++ 0xA#4 ++ imm) (.snei rd rs imm) s (Completes rd (if a ≠ b then 1 else 0))

/-- The register forms of the six unsigned tests: the destination becomes the whole word 1 where the relation holds of
the unsigned readings, and 0 where it does not (spec/42_test.md R183, R187, R191, R195, R199, R203, R206). -/
def Obligations.TestsUnsignedRegisters : Prop :=
  ∀ (s : State) (rd rs rt : RegNum),
    let a := (s.reg rs).toNat
    let b := (s.reg rt).toNat
    Runs (0x2#4 ++ rd ++ rs ++ 0x1#4 ++ 0#12 ++ rt) (.sltu rd rs rt) s (Completes rd (if a < b then 1 else 0)) ∧
    Runs (0x2#4 ++ rd ++ rs ++ 0x3#4 ++ 0#12 ++ rt) (.sgtu rd rs rt) s (Completes rd (if a > b then 1 else 0)) ∧
    Runs (0x2#4 ++ rd ++ rs ++ 0x5#4 ++ 0#12 ++ rt) (.sleu rd rs rt) s (Completes rd (if a ≤ b then 1 else 0)) ∧
    Runs (0x2#4 ++ rd ++ rs ++ 0x7#4 ++ 0#12 ++ rt) (.sgeu rd rs rt) s (Completes rd (if a ≥ b then 1 else 0)) ∧
    Runs (0x2#4 ++ rd ++ rs ++ 0x9#4 ++ 0#12 ++ rt) (.sequ rd rs rt) s (Completes rd (if a = b then 1 else 0)) ∧
    Runs (0x2#4 ++ rd ++ rs ++ 0xB#4 ++ 0#12 ++ rt) (.sneu rd rs rt) s (Completes rd (if a ≠ b then 1 else 0))

/-- The immediate forms of the six unsigned tests: the destination becomes the whole word 1 where the relation holds of
the unsigned readings, the immediate zero-extended, and 0 where it does not
(spec/42_test.md R184, R188, R192, R196, R200, R204, R206). -/
def Obligations.TestsUnsignedImmediates : Prop :=
  ∀ (s : State) (rd rs : RegNum) (imm : BitVec 16),
    let a := (s.reg rs).toNat
    let b := imm.toNat
    Runs (0x3#4 ++ rd ++ rs ++ 0x1#4 ++ imm) (.sltui rd rs imm) s (Completes rd (if a < b then 1 else 0)) ∧
    Runs (0x3#4 ++ rd ++ rs ++ 0x3#4 ++ imm) (.sgtui rd rs imm) s (Completes rd (if a > b then 1 else 0)) ∧
    Runs (0x3#4 ++ rd ++ rs ++ 0x5#4 ++ imm) (.sleui rd rs imm) s (Completes rd (if a ≤ b then 1 else 0)) ∧
    Runs (0x3#4 ++ rd ++ rs ++ 0x7#4 ++ imm) (.sgeui rd rs imm) s (Completes rd (if a ≥ b then 1 else 0)) ∧
    Runs (0x3#4 ++ rd ++ rs ++ 0x9#4 ++ imm) (.sequi rd rs imm) s (Completes rd (if a = b then 1 else 0)) ∧
    Runs (0x3#4 ++ rd ++ rs ++ 0xB#4 ++ imm) (.sneui rd rs imm) s (Completes rd (if a ≠ b then 1 else 0))

/-! ## Jumps and branches -/

/-- `j` goes to its 20-bit field, `jr` to the low 20 bits of its register, and neither changes anything else
(spec/43_branch.md R211, R212). -/
def Obligations.JumpAndJumpRegister : Prop :=
  ∀ (s : State) (rs : RegNum) (addr : Addr),
    Runs (0x4#4 ++ 0#4 ++ 0#4 ++ addr) (.j addr) s (Jumps addr) ∧
    Runs (0x5#4 ++ 0#4 ++ rs ++ 0#20) (.jr rs) s (Jumps ((s.reg rs).extractLsb' 0 20))

/-- `jal` and `jalr` also leave the address after them, zero-extended, in `$ra`; `jalr $ra` has no meaning
(spec/43_branch.md R213, R214, decisions D29, D19). -/
def Obligations.JumpAndLink : Prop :=
  ∀ (s : State) (rs : RegNum) (addr : Addr),
    Runs (0x6#4 ++ 0#4 ++ 0#4 ++ addr) (.jal addr) s (Links addr) ∧
    (rs ≠ 15 → Runs (0x7#4 ++ 0#4 ++ rs ++ 0#20) (.jalr rs) s (Links ((s.reg rs).extractLsb' 0 20))) ∧
    exec (.jalr 15) s = .refused .jumpAndLinkThroughLink

/-- `beqz` and `bnez`: to the address after the branch plus the offset, modulo 2^20, where the whole register is zero (or is
not), else to the address after the branch (spec/43_branch.md R215, R216, decision D3). -/
def Obligations.ConditionalBranches : Prop :=
  ∀ (s : State) (rs : RegNum) (offset : BitVec 20),
    let next := s.pc + 1
    ∃ target : Addr, (target.toNat : Int) = (s.pc.toNat + 1 + offset.toInt) % 2 ^ 20 ∧
      Runs (0xA#4 ++ 0#4 ++ rs ++ offset) (.beqz rs offset) s (Jumps (if s.reg rs = 0 then target else next)) ∧
      Runs (0xB#4 ++ 0#4 ++ rs ++ offset) (.bnez rs offset) s (Jumps (if s.reg rs = 0 then next else target))

/-! ## Loads, stores and memory -/

/-- `lw` of a word of RAM or ROM that the protection check lets through puts that word into its destination; `sw` to a word
of RAM that it lets through replaces that word, and no other byte of memory, by its data register. The address, with
`$rbase` 0, is the register plus the signed offset, modulo 2^20 (spec/44_loadstore.md R231, R232, R233, decision D2; spec/20_memory.md R64, R65, R69, R70, R74). -/
def Obligations.LoadAndStoreWord : Prop :=
  ∀ (s : State) (rd rs : RegNum) (offset : BitVec 20),
    let a := s.accessed rs offset
    (s.rbase = 0 → (a.toNat : Int) = ((s.reg rs).toNat + offset.toInt) % 2 ^ 20) ∧
    (s.mayAccess a → a.toNat < 0x4000 ∨ 0x80000 ≤ a.toNat ∧ a.toNat < 0x88000 →
      Runs (0x8#4 ++ rd ++ rs ++ offset) (.lw rd rs offset) s (Completes rd (s.readWord a))) ∧
    (s.mayAccess a → a.toNat < 0x4000 →
      Runs (0x9#4 ++ rd ++ rs ++ offset) (.sw rd rs offset) s fun s t =>
        t.readWord a = s.reg rd ∧ SameMemoryBut a s t ∧ t.pc = s.pc + 1 ∧
        SameRegisters s t ∧ SameSpecial s t ∧ SameDevices s t)

/-- In user mode, a `lw` or `sw` that the protection table forbids takes the General Protection Fault: memory and devices
are as before, and only the destination of a `lw` is open (spec/44_loadstore.md R234, decisions D10, D4; what `$ers` saves where it is `$13` is
[log 13]). -/
def Obligations.ForbiddenAccessFaults : Prop :=
  ∀ (s : State) (rd rs : RegNum) (offset : BitVec 20),
    s.ku = false → s.tableInMemory = true → s.allowed (s.accessed rs offset) = false →
    Runs (0x8#4 ++ rd ++ rs ++ offset) (.lw rd rs offset) s (TakesSparing rd .generalProtection (s.pc + 1)) ∧
    Runs (0x9#4 ++ rd ++ rs ++ offset) (.sw rd rs offset) s (Takes (some .generalProtection) (s.pc + 1))

/-- Where the spec refuses an access that the protection check lets through, `lw` and `sw` stop by name: nothing at the
address, a store to ROM, a load of a write-only register, a store to a read-only one, and the user interrupt address; and
in user mode a protection table outside RAM and ROM (spec/20_memory.md R65, R67, R74, decisions D17, D15;
spec/60_exceptions.md R340, decision D32). That the stop where nothing is at the address is a fault is the model's choice
[log 27]; that a table only partly outside RAM and ROM stops every user-mode access is deduced [log 26]. -/
def Obligations.AccessesWithoutMeaning : Prop :=
  ∀ (s : State) (rd rs : RegNum) (offset : BitVec 20),
    let a := s.accessed rs offset
    let lw := exec (.lw rd rs offset) s
    let sw := exec (.sw rd rs offset) s
    (s.ku = false → s.tableInMemory = false →
      lw = .refused .protectionTableOutsideMemory ∧ sw = .refused .protectionTableOutsideMemory) ∧
    (s.mayAccess a →
      ((0x4000 ≤ a.toNat ∧ a.toNat < 0x70000 ∨ 0x70005 ≤ a.toNat ∧ a.toNat < 0x71000 ∨
          0x71005 ≤ a.toNat ∧ a.toNat < 0x72000 ∨ 0x72004 ≤ a.toNat ∧ a.toNat < 0x73000 ∨
          0x7300B ≤ a.toNat ∧ a.toNat < 0x7F000 ∨ 0x7F001 ≤ a.toNat ∧ a.toNat < 0x80000 ∨ 0x88000 ≤ a.toNat) →
        lw = .fault (.unassignedAddress a) ∧ sw = .fault (.unassignedAddress a)) ∧
      (0x80000 ≤ a.toNat ∧ a.toNat < 0x88000 → sw = .refused (.storeToRom a)) ∧
      (a = 0x70000 ∨ a = 0x71000 → lw = .refused .loadFromWriteOnly) ∧
      (a ∈ [0x70001, 0x70003, 0x71001, 0x71003, 0x72002, 0x73000, 0x73001] → sw = .refused .storeToReadOnly) ∧
      (a = 0x7F000 → lw = .refused .loadFromUserAcknowledge ∧
        (s.reg rd ≠ 0 → sw = .refused (.nonZeroUserAcknowledge (s.reg rd)))))

/-- A word of RAM written by `sw` is returned by a later `lw` of the same address, and a later `lw` of another word of RAM or
ROM returns what it would have returned before, whatever steps come between, as long as none of them stores to the word
loaded or presses RESET (spec/20_memory.md R64, R77). -/
def Obligations.StoreThenLoad : Prop :=
  ∀ (s t u v : State) (rd rs rd' rs' : RegNum) (offset offset' : BitVec 20),
    let a := s.accessed rs offset
    let b := u.accessed rs' offset'
    exec (.sw rd rs offset) s = .next t → s.mayAccess a → a.toNat < 0x4000 → Later b t u →
    (b.toNat < 0x4000 ∨ 0x80000 ≤ b.toNat ∧ b.toNat < 0x88000) → u.mayAccess b →
    exec (.lw rd' rs' offset') u = .next v → rd' ≠ 0 →
    v.reg rd' = if b = a then s.reg rd else s.readWord b

/-- A `sw` to the address of the very next instruction is seen by its fetch, whatever device events but RESET fall between
(spec/20_memory.md R82, decision D25). -/
def Obligations.StoreThenFetch : Prop :=
  ∀ (s t : State) (rd rs : RegNum) (offset : BitVec 20) (i : Instr),
    let a := s.accessed rs offset
    exec (.sw rd rs offset) s = .next t → s.mayAccess a → a.toNat < 0x4000 → a = s.based (s.pc + 1) →
    decode (s.reg rd) = .instr i → .resetButton ∉ t.boundaryEvents → t.deliver.interruptPending = false →
    t.mayAccess a → step t = exec i t.deliver

/-- Only `sw` changes memory, and it changes no byte outside the word it accesses (spec/20_memory.md R76). -/
def Obligations.OnlyStoreWordChangesMemory : Prop :=
  ∀ (i : Instr) (s t : State), exec i s = .next t →
    SameMemory s t ∨ ∃ rd rs offset, i = .sw rd rs offset ∧ SameMemoryBut (s.accessed rs offset) s t

/-! ## Protection and modes -/

/-- Bit `31 - k` of table word `w` covers the 1024 addresses from `w * 0x8000 + k * 0x400`: a 1 allows, a 0 protects
(spec/20_memory.md R73). -/
def Obligations.ProtectionTableBits : Prop :=
  ∀ (s : State) (a : Addr) (w k : Nat), w < 32 → k < 32 →
    w * 0x8000 + k * 0x400 ≤ a.toNat → a.toNat ≤ w * 0x8000 + k * 0x400 + 0x3FF →
    s.allowed a = (s.readWord (s.ptable.extractLsb' 0 20 + BitVec.ofNat 20 w)).getLsbD (31 - k)

/-- A program started by the monitor may access every address, in user mode too (spec/70_reset_and_hazards.md R358,
decision D26; `State.AtLaunch` is [log 31]). -/
def Obligations.EverythingAllowedAtLaunch : Prop :=
  ∀ (l : Launch) (s : State) (a : Addr), s.AtLaunch l → s.tableInMemory = true ∧ s.allowed a = true

/-- User mode cannot change any special register: an instruction run in user mode leaves them all as they were, or takes an
exception, which enters kernel mode at `$evec` with the address after the instruction saved (spec/60_exceptions.md R290,
R291; the saved address is decision D4, and [log 13] says what `$ers` saves of an open `$13`). -/
def Obligations.UserModeKeepsSpecialRegisters : Prop :=
  ∀ (i : Instr) (s t : State), s.ku = false → exec i s = .next t →
    SameSpecial s t ∨ ∃ c : InternalCause, Entered (some c) (s.pc + 1) s t

/-- User mode cannot change what the protection table forbids: no word of memory in a forbidden block, and no device whose
block is forbidden (spec/60_exceptions.md R290; spec/20_memory.md R73, R74). -/
def Obligations.UserModeCannotChangeForbidden : Prop :=
  ∀ (i : Instr) (s t : State), s.ku = false → exec i s = .next t →
    (∀ a : Addr, s.allowed a = false → t.readWord a = s.readWord a) ∧
    (s.allowed 0x70000 = false → t.serial1 = s.serial1) ∧ (s.allowed 0x71000 = false → t.serial2 = s.serial2) ∧
    (s.allowed 0x72000 = false → t.timer = s.timer) ∧ (s.allowed 0x73000 = false → t.parallel = s.parallel) ∧
    (s.allowed 0x7F000 = false → t.userPending = s.userPending)

/-- User mode cannot learn what the protection table forbids: run from two states that differ in forbidden words of memory
only, an instruction ends alike in both, and the states after differ in those words only (spec/60_exceptions.md R290;
spec/20_memory.md R73, R74). -/
def Obligations.UserModeCannotReadForbidden : Prop :=
  ∀ (i : Instr) (s t : State), s.ku = false → AgreeWhereAllowed s t →
    SameOutcome (fun a => s.allowed a = true) (exec i s) (exec i t)

/-- `$cctrl` changes only by an exception entry, by `rfe` and by `movgs` to it, the last two in kernel mode; so kernel mode is
left, and interrupts are enabled, by those two instructions only. `$estat` is written by an exception entry only
(spec/60_exceptions.md R291; spec/10_state.md R34, R36, R40; the saved address is decision D4, the number of `$cctrl` a
parameter, and [log 13] says what `$ers` saves of an open `$13`). -/
def Obligations.ControlAndStatusChanges : Prop :=
  ∀ (i : Instr) (s t : State), exec i s = .next t →
    (t.cctrl = s.cctrl ∨ (∃ c : InternalCause, Entered (some c) (s.pc + 1) s t) ∨
      s.ku = true ∧ (i = .rfe ∨ ∃ rs, i = .movgs s.params.spr.cctrl rs)) ∧
    (t.estat = s.estat ∨ ∃ c : InternalCause, Entered (some c) (s.pc + 1) s t)

/-! ## The invariant and reset -/

/-- The state after reset has the invariant, with the spec's default parameters and with any others. Its values are those
of log entries 1, 6 and 11 where the spec gives none (spec/10_state.md R53; spec/00_scope.md R7). -/
def Obligations.InvariantAtReset : Prop := State.reset.Inv ∧ ∀ p : Params, (State.resetWith p).Inv

/-- Every step keeps the invariant and the parameters: what memory lists lies in RAM and ROM (spec/20_memory.md R63), in the
canonical form of the model's own choice [log 1]; `$rbase` is 0, as decision D16 has it; the slot of `$0`, which nothing
reads, holds 0, the model's own choice [log 32]; `$estat` has the form of decision D13 (spec/60_exceptions.md R277); the
prescaler stays between 1 and 1302 (spec/60_exceptions.md R336). -/
def Obligations.EveryStepKeepsInvariant : Prop :=
  ∀ s t : State, s.Inv → step s = .next t → t.Inv ∧ t.params = s.params

/-- What reset leaves, as the spec decides and states it: the program counter at `RESET_PC`, by default the start of ROM
(decision D7), kernel mode, interrupts disabled, `$rbase` and both counters 0, `$0` reading 0, serial interrupts disabled,
hexadecimal decode on. Pressing RESET gives the same, while ROM, the switches and the buttons stay (spec/10_state.md R53;
spec/70_reset_and_hazards.md R350, R351; the default positions are log entries 9 and 10, the button is [log 19]). -/
def Obligations.ResetValues : Prop :=
  State.reset.pc = 0x80000 ∧
  ∀ (p : Params) (s t : State), t = State.resetWith p ∨ t = s.apply .resetButton →
    t.pc = t.params.resetPc ∧ t.ku = true ∧ t.ie = false ∧ t.rbase = 0 ∧ t.icount = 0 ∧ t.ccount = 0 ∧ t.reg 0 = 0 ∧
    (∀ q : SerialPortId, (t.serial q).control.getLsbD t.params.serial.rxie = false ∧
      (t.serial q).control.getLsbD t.params.serial.txie = false ∧
      (t.serial q).control.getLsbD t.params.serial.errie = false) ∧
    t.parallel.control.getLsbD t.params.parallel.hex = true ∧
    (t = s.apply .resetButton → t.params = s.params ∧
      (∀ a : Addr, 0x80000 ≤ a.toNat → a.toNat < 0x88000 → t.readWord a = s.readWord a) ∧
      t.parallel.switches = s.parallel.switches ∧ t.parallel.buttons = s.parallel.buttons)

/-- `$0` reads 0 and discards what is written to it; every other register reads what was last written to it, and keeps it
while others are written (spec/10_state.md R20, R21). -/
def Obligations.RegisterFile : Prop :=
  ∀ (s : State) (r q : RegNum) (v : Word),
    s.reg 0 = 0 ∧ s.setReg 0 v = s ∧ (r ≠ 0 → (s.setReg r v).reg r = v) ∧ (q ≠ r → (s.setReg r v).reg q = s.reg q)

/-! ## Devices -/

/-- The timer's load register keeps the low 16 bits stored to it, a load returns them, and a store does not change the count
(spec/60_exceptions.md R332). -/
def Obligations.TimerLoadRegister : Prop :=
  ∀ (s : State) (rd rs : RegNum) (offset : BitVec 20),
    s.accessed rs offset = 0x72001 → s.mayAccess 0x72001 →
    Runs (0x9#4 ++ rd ++ rs ++ offset) (.sw rd rs offset) s
      (Stores { s with timer := { s.timer with load := (s.reg rd).extractLsb' 0 16 } }) ∧
    ∃ v : Word, v.extractLsb' 0 16 = s.timer.load ∧
      Runs (0x8#4 ++ rd ++ rs ++ offset) (.lw rd rs offset) s (Completes rd v)

/-- A store that enables the timer copies the load value to the count; one that disables it leaves the count; an enable with
load 0 has no meaning (spec/60_exceptions.md R335, decision D28; the bit positions are parameters, spec/00_scope.md R7). -/
def Obligations.TimerControlStore : Prop :=
  ∀ (s : State) (rd rs : RegNum) (offset : BitVec 20),
    let enable := (s.reg rd).getLsbD s.params.timer.enable
    let auto := (s.reg rd).getLsbD s.params.timer.auto
    s.accessed rs offset = 0x72000 → s.mayAccess 0x72000 →
    (enable = true → s.timer.enable = false → s.timer.load ≠ 0 →
      Runs (0x9#4 ++ rd ++ rs ++ offset) (.sw rd rs offset) s
        (Stores { s with timer := { s.timer with enable := true, auto := auto, count := s.timer.load } })) ∧
    (enable = true → s.timer.enable = false → s.timer.load = 0 →
      exec (.sw rd rs offset) s = .refused .timerEnabledWithZeroLoad) ∧
    (enable = false ∨ s.timer.enable = true →
      Runs (0x9#4 ++ rd ++ rs ++ offset) (.sw rd rs offset) s
        (Stores { s with timer := { s.timer with enable := enable, auto := auto } }))

/-- An enabled timer with a count of `n + 1` counts down for `n` ticks and expires at the next one: the interrupt is pending;
in automatic restart it counts on from the load value, with the overrun bit set where the interrupt was pending already,
and in single-shot mode it is disabled (spec/60_exceptions.md R335, decision D28). -/
def Obligations.TimerExpires : Prop :=
  ∀ (t : Timer) (n : Nat), t.enable = true → t.count.toNat = n + 1 →
    (∀ m, m ≤ n → Nat.iterate Timer.tick m t = { t with count := t.count - BitVec.ofNat 16 m }) ∧
    (t.auto = true → Nat.iterate Timer.tick (n + 1) t =
      { t with count := t.load, overrun := t.overrun || t.pending, pending := true }) ∧
    (t.auto = false → Nat.iterate Timer.tick (n + 1) t = { t with count := 0, pending := true, enable := false })

/-- One tick comes every 2604 CPU clock cycles (spec/60_exceptions.md R336, derived there), and at every step boundary at
least one cycle passes, so an enabled timer ticks again after finitely many CPU steps (spec/70_reset_and_hazards.md R372,
R374; that a cycle passes before the first step too is [log 29]). -/
def Obligations.TickEvery2604Cycles : Prop :=
  (∀ t : Timer, t.prescaler = 1302 → t.signal = false →
    Timer.cycles 2604 t = t.tick ∧ ∀ n, n < 2604 →
      ∃ p b, Timer.cycles n t = { t with prescaler := p, signal := b }) ∧
  ∀ s : State, .resetButton ∉ s.boundaryEvents → ∃ n, 1 ≤ n ∧ s.deliver.timer = Timer.cycles n s.timer

/-- A store to an interrupt acknowledge register keeps the set bits over which 1 is written and clears the others; where it
writes 1 over a clear bit it has no meaning (spec/60_exceptions.md R315, R326, R334; the bit positions are parameters,
spec/00_scope.md R7). -/
def Obligations.AcknowledgeStores : Prop :=
  ∀ (s : State) (rd rs : RegNum) (offset : BitVec 20),
    let v := s.reg rd
    let a := s.accessed rs offset
    let w := 0x9#4 ++ rd ++ rs ++ offset
    let changed := v.getLsbD s.params.parallel.iack
    let pending := v.getLsbD s.params.timer.pending
    let overrun := v.getLsbD s.params.timer.overrun
    s.mayAccess a →
    (∀ p : SerialPortId, a = p.base + 4 →
      ((∀ i, i < 3 → v.getLsbD i = true → (s.serial p).pending.getLsbD i = true) →
        Runs w (.sw rd rs offset) s
          (Stores (s.setSerial p { s.serial p with pending := v.extractLsb' 0 3 }))) ∧
      ((∃ i, i < 3 ∧ v.getLsbD i = true ∧ (s.serial p).pending.getLsbD i = false) →
        exec (.sw rd rs offset) s = .refused .acknowledgeOfClearBit)) ∧
    (a = 0x73005 →
      ((changed = true → s.parallel.pending = true) →
        Runs w (.sw rd rs offset) s
          (Stores { s with parallel := { s.parallel with pending := changed } })) ∧
      (changed = true → s.parallel.pending = false →
        exec (.sw rd rs offset) s = .refused .acknowledgeOfClearBit)) ∧
    (a = 0x72003 →
      ((pending = true → s.timer.pending = true) → (overrun = true → s.timer.overrun = true) →
        Runs w (.sw rd rs offset) s
          (Stores { s with timer := { s.timer with pending := pending, overrun := overrun } })) ∧
      (pending = true ∧ s.timer.pending = false ∨ overrun = true ∧ s.timer.overrun = false →
        exec (.sw rd rs offset) s = .refused .acknowledgeOfClearBit)) ∧
    (a = 0x7F000 → v = 0 → Runs w (.sw rd rs offset) s (Stores { s with userPending := false }))

/-- A store to a serial transmit data register that is empty hands over the low 8 bits and makes it full; one to a register
that is full has no meaning; a character handed over leaves the port when it finishes, after those before it, and the
register is empty again; and however long a run is, once it is as long as the script of its first state every transmit
register is empty at each step boundary, so a transmission ends after finitely many CPU steps (spec/60_exceptions.md R311,
R314, R317, in part inferred there; spec/70_reset_and_hazards.md R373, R374). The list of characters that have left, and
when a transmission ends once the environment's choices are used up, are the model's choice [log 23]. -/
def Obligations.SerialTransmit : Prop :=
  (∀ (s : State) (p : SerialPortId) (rd rs : RegNum) (offset : BitVec 20),
    let q := s.serial p
    s.accessed rs offset = p.base → s.mayAccess p.base →
    (q.tds = true →
      Runs (0x9#4 ++ rd ++ rs ++ offset) (.sw rd rs offset) s
        (Stores (s.setSerial p { q with tdr := (s.reg rd).extractLsb' 0 8, tds := false }))) ∧
    (q.tds = false → exec (.sw rd rs offset) s = .refused .transmitWhileFull)) ∧
  (∀ (s : State) (p : SerialPortId), (s.serial p).tds = false →
    ((s.apply (.serialSent p)).serial p).sent = (s.serial p).sent ++ [(s.serial p).tdr] ∧
    ((s.apply (.serialSent p)).serial p).tds = true) ∧
  ∀ (n : Nat) (s t : State) (p : SerialPortId), Steps n s t → s.script.length ≤ n → (t.deliver.serial p).tds = true

/-- A character that arrives is in the receive data register: a load of it gives the character in the low 8 bits and clears
Receive Data Ready, also where its destination is `$0` (spec/44_loadstore.md R236, decision D34), and acknowledges no
interrupt; a load with nothing ready gives any value (spec/60_exceptions.md R312, R315, R317, derived there). -/
def Obligations.SerialReceive : Prop :=
  ∀ (s : State) (p : SerialPortId) (rd rs : RegNum) (offset : BitVec 20),
    let q := s.serial p
    s.accessed rs offset = p.base + 1 → s.mayAccess (p.base + 1) →
    (∃ v : Word, (q.ready = true → v.extractLsb' 0 8 = q.rdr) ∧
      Runs (0x8#4 ++ rd ++ rs ++ offset) (.lw rd rs offset) s
        fun s t => Completes rd v (s.setSerial p { q with ready := false }) t) ∧
    ∀ c : BitVec 8, ((s.apply (.serialReceive p c)).serial p).ready = true ∧
      ((s.apply (.serialReceive p c)).serial p).rdr = c

/-- A store to a serial control register keeps its low 11 bits. A pending bit is what it was before, but where the store
turns on its enable bit while its condition already holds: a character ready, the transmit register empty, an error
reported, or one that may hold where nothing is reported [log 22]. There it is open, also where it was 1
(spec/60_exceptions.md R313, R316; the bit positions are parameters, spec/00_scope.md R7). -/
def Obligations.SerialControlStore : Prop :=
  ∀ (s : State) (p : SerialPortId) (rd rs : RegNum) (offset : BitVec 20),
    let q := s.serial p
    let l := s.params.serial
    let turnsOn := fun b : Fin 11 => (s.reg rd).getLsbD b = true ∧ q.control.getLsbD b = false
    let isOpen := fun i : Nat =>
      i = l.iackRx ∧ turnsOn l.rxie ∧ q.ready = true ∨ i = 1 ∧ turnsOn l.txie ∧ q.tds = true ∨
      i = l.iackErr ∧ turnsOn l.errie ∧ q.errors ≠ some 0
    s.accessed rs offset = p.base + 2 → s.mayAccess (p.base + 2) →
    ∃ pending : BitVec 3,
      (∀ i, i < 3 → ¬isOpen i → pending.getLsbD i = q.pending.getLsbD i) ∧
      Runs (0x9#4 ++ rd ++ rs ++ offset) (.sw rd rs offset) s
        (Stores (s.setSerial p { q with control := (s.reg rd).extractLsb' 0 11, pending := pending }))

/-- Which device drives which interrupt line; when a serial port's events set its pending bits, and that they set no other;
and that a press of the user interrupt button sets its pending bit. The timer's pending bit is in the statement
TimerExpires, the parallel port's in ParallelPortRegisters (spec/60_exceptions.md R265, R266, R316, R326, R334, R340; the
bit positions are parameters, spec/00_scope.md R7). -/
def Obligations.InterruptLines : Prop :=
  ∀ (s : State) (q : SerialPort) (c : BitVec 8) (e : BitVec 3) (i : Nat),
    let l := s.params.serial
    let sets := fun (q' : SerialPort) (enable : Fin 11) (bit : Fin 3) =>
      i < 3 → q'.pending.getLsbD i = (q.pending.getLsbD i || (decide (i = bit) && q.control.getLsbD enable))
    s.lines.getLsbD 0 = false ∧ s.lines.getLsbD 1 = s.userPending ∧ s.lines.getLsbD 2 = s.timer.pending ∧
    s.lines.getLsbD 3 = s.parallel.pending ∧ s.lines.getLsbD 4 = decide (s.serial1.pending ≠ 0) ∧
    s.lines.getLsbD 5 = decide (s.serial2.pending ≠ 0) ∧ s.lines.getLsbD 6 = false ∧ s.lines.getLsbD 7 = false ∧
    sets (q.arrive l c) l.rxie l.iackRx ∧ (q.tds = false → sets (q.finish l) l.txie 1) ∧
    (e ≠ 0 → sets (q.report l (some e)) l.errie l.iackErr) ∧
    (s.apply .userButton).userPending = true

/-- The parallel port's registers. A store to a display register, the LEDs or the control register keeps the register's
bits, and a load right after it gives them back, at either of the two addresses of a lower display. What a display shows:
the digit of its low four bits with the hexadecimal decode on, and else each element whose bit is 1. Where the switches or
the buttons change, they take their new positions and the interrupt pends where it is enabled
(spec/60_exceptions.md R320, R323 to R325, R327, R328; the bit positions and the segment map are parameters,
spec/00_scope.md R7). -/
def Obligations.ParallelPortRegisters : Prop :=
  (∀ (s : State) (rd rs : RegNum) (offset : BitVec 20),
    let v := s.reg rd
    let a := s.accessed rs offset
    let keeps := fun (n : Nat) (port : ParallelPort) (places : List Addr) => a ∈ places →
      Runs (0x9#4 ++ rd ++ rs ++ offset) (.sw rd rs offset) s fun s t =>
        Stores { s with parallel := port } s t ∧
        ∀ (rd' rs' : RegNum) (offset' : BitVec 20),
          t.accessed rs' offset' ∈ places → t.mayAccess (t.accessed rs' offset') →
          ∃ x : Word, x.extractLsb' 0 n = v.extractLsb' 0 n ∧
            Runs (0x8#4 ++ rd' ++ rs' ++ offset') (.lw rd' rs' offset') t (Completes rd' x)
    s.mayAccess a →
    keeps 8 { s.parallel with lowerLeft := v.extractLsb' 0 8 } [0x73002, 0x73008] ∧
    keeps 8 { s.parallel with lowerRight := v.extractLsb' 0 8 } [0x73003, 0x73009] ∧
    keeps 8 { s.parallel with upperLeft := v.extractLsb' 0 8 } [0x73006] ∧
    keeps 8 { s.parallel with upperRight := v.extractLsb' 0 8 } [0x73007] ∧
    keeps 2 { s.parallel with control := v.extractLsb' 0 2 } [0x73004] ∧
    keeps 16 { s.parallel with leds := v.extractLsb' 0 16 } [0x7300A]) ∧
  (∀ (p : ParallelPort) (l : ParallelLayout) (x : BitVec 8),
    (p.control.getLsbD l.hex = true → p.shows l x = .digit (x.extractLsb' 0 4)) ∧
    (p.control.getLsbD l.hex = false → ∃ lit : BitVec 8, p.shows l x = .segments lit ∧
      ∀ j : Fin 8, lit.getLsbD j = x.getLsbD l.segmentMap[j])) ∧
  ∀ s : State,
    let enabled := s.parallel.control.getLsbD s.params.parallel.ie
    (∀ x : BitVec 16, s.apply (.switches x) = { s with parallel := { s.parallel with
      switches := x, pending := s.parallel.pending || (decide (x ≠ s.parallel.switches) && enabled) } }) ∧
    ∀ x : BitVec 3, s.apply (.buttons x) = { s with parallel := { s.parallel with
      buttons := x, pending := s.parallel.pending || (decide (x ≠ s.parallel.buttons) && enabled) } }

/-- A load of a register of the timer or the parallel port, or of a serial control, status or acknowledge register, gives
the register in its low bits and changes nothing; the error bits of a serial status register are those the environment
reports, and open where it reports none. The serial receive register, whose load clears Receive Data Ready, is in the
statement SerialReceive (spec/60_exceptions.md R313 to R315, R321 to R327, R331 to R334; the bit positions are parameters,
spec/00_scope.md R7). -/
def Obligations.DeviceRegisterLoads : Prop :=
  ∀ (s : State) (rd rs : RegNum) (offset : BitVec 20),
    let a := s.accessed rs offset
    let gives := fun reads : Word → Prop => ∃ v : Word, reads v ∧
      Runs (0x8#4 ++ rd ++ rs ++ offset) (.lw rd rs offset) s (Completes rd v)
    let m := s.params.serial
    let t := s.params.timer
    s.mayAccess a →
    (a = 0x72000 → gives fun v => v.getLsbD t.enable = s.timer.enable ∧ v.getLsbD t.auto = s.timer.auto) ∧
    (a = 0x72001 → gives fun v => v.extractLsb' 0 16 = s.timer.load) ∧
    (a = 0x72002 → gives fun v => v.extractLsb' 0 16 = s.timer.count) ∧
    (a = 0x72003 → gives fun v => v.getLsbD t.pending = s.timer.pending ∧ v.getLsbD t.overrun = s.timer.overrun) ∧
    (a = 0x73000 → gives fun v => v.extractLsb' 0 16 = s.parallel.switches) ∧
    (a = 0x73001 → gives fun v => v.extractLsb' 0 3 = s.parallel.buttons) ∧
    (a = 0x73002 ∨ a = 0x73008 → gives fun v => v.extractLsb' 0 8 = s.parallel.lowerLeft) ∧
    (a = 0x73003 ∨ a = 0x73009 → gives fun v => v.extractLsb' 0 8 = s.parallel.lowerRight) ∧
    (a = 0x73004 → gives fun v => v.extractLsb' 0 2 = s.parallel.control) ∧
    (a = 0x73005 → gives fun v => v.getLsbD s.params.parallel.iack = s.parallel.pending) ∧
    (a = 0x73006 → gives fun v => v.extractLsb' 0 8 = s.parallel.upperLeft) ∧
    (a = 0x73007 → gives fun v => v.extractLsb' 0 8 = s.parallel.upperRight) ∧
    (a = 0x7300A → gives fun v => v.extractLsb' 0 16 = s.parallel.leds) ∧
    ∀ p : SerialPortId,
      let q := s.serial p
      (a = p.base + 2 → gives fun v => v.extractLsb' 0 11 = q.control) ∧
      (a = p.base + 3 → gives fun v => v.getLsbD 0 = q.ready ∧ v.getLsbD 1 = q.tds ∧ ∀ e, q.errors = some e →
        v.getLsbD m.overrun = e.getLsbD 0 ∧ v.getLsbD m.parity = e.getLsbD 1 ∧ v.getLsbD m.frame = e.getLsbD 2) ∧
      (a = p.base + 4 → gives fun v => v.extractLsb' 0 3 = q.pending)
end

