-- ==== Sys2Proof/Laws/State.lean ====
section
/-! SUPPORT. What each field of the state is after each update: one lemma for each field and update, so that no later
proof unfolds a record update; and reads of registers and memory after the updates that do not touch them. -/

namespace Sys2Proof.Machine

/-! `setReg` -/

@[simp] theorem State.setReg_params (s : State) (r : RegNum) (v : Word) : (s.setReg r v).params = s.params := by unfold State.setReg; split <;> rfl
@[simp] theorem State.setReg_pc (s : State) (r : RegNum) (v : Word) : (s.setReg r v).pc = s.pc := by unfold State.setReg; split <;> rfl
@[simp] theorem State.setReg_cctrl (s : State) (r : RegNum) (v : Word) : (s.setReg r v).cctrl = s.cctrl := by unfold State.setReg; split <;> rfl
@[simp] theorem State.setReg_estat (s : State) (r : RegNum) (v : Word) : (s.setReg r v).estat = s.estat := by unfold State.setReg; split <;> rfl
@[simp] theorem State.setReg_evec (s : State) (r : RegNum) (v : Word) : (s.setReg r v).evec = s.evec := by unfold State.setReg; split <;> rfl
@[simp] theorem State.setReg_ear (s : State) (r : RegNum) (v : Word) : (s.setReg r v).ear = s.ear := by unfold State.setReg; split <;> rfl
@[simp] theorem State.setReg_ers (s : State) (r : RegNum) (v : Word) : (s.setReg r v).ers = s.ers := by unfold State.setReg; split <;> rfl
@[simp] theorem State.setReg_icount (s : State) (r : RegNum) (v : Word) : (s.setReg r v).icount = s.icount := by unfold State.setReg; split <;> rfl
@[simp] theorem State.setReg_ccount (s : State) (r : RegNum) (v : Word) : (s.setReg r v).ccount = s.ccount := by unfold State.setReg; split <;> rfl
@[simp] theorem State.setReg_ptable (s : State) (r : RegNum) (v : Word) : (s.setReg r v).ptable = s.ptable := by unfold State.setReg; split <;> rfl
@[simp] theorem State.setReg_rbase (s : State) (r : RegNum) (v : Word) : (s.setReg r v).rbase = s.rbase := by unfold State.setReg; split <;> rfl
@[simp] theorem State.setReg_mem (s : State) (r : RegNum) (v : Word) : (s.setReg r v).mem = s.mem := by unfold State.setReg; split <;> rfl
@[simp] theorem State.setReg_serial1 (s : State) (r : RegNum) (v : Word) : (s.setReg r v).serial1 = s.serial1 := by unfold State.setReg; split <;> rfl
@[simp] theorem State.setReg_serial2 (s : State) (r : RegNum) (v : Word) : (s.setReg r v).serial2 = s.serial2 := by unfold State.setReg; split <;> rfl
@[simp] theorem State.setReg_parallel (s : State) (r : RegNum) (v : Word) : (s.setReg r v).parallel = s.parallel := by unfold State.setReg; split <;> rfl
@[simp] theorem State.setReg_timer (s : State) (r : RegNum) (v : Word) : (s.setReg r v).timer = s.timer := by unfold State.setReg; split <;> rfl
@[simp] theorem State.setReg_userPending (s : State) (r : RegNum) (v : Word) : (s.setReg r v).userPending = s.userPending := by unfold State.setReg; split <;> rfl
@[simp] theorem State.setReg_draws (s : State) (r : RegNum) (v : Word) : (s.setReg r v).draws = s.draws := by unfold State.setReg; split <;> rfl
@[simp] theorem State.setReg_ramEpoch (s : State) (r : RegNum) (v : Word) : (s.setReg r v).ramEpoch = s.ramEpoch := by unfold State.setReg; split <;> rfl
@[simp] theorem State.setReg_script (s : State) (r : RegNum) (v : Word) : (s.setReg r v).script = s.script := by unfold State.setReg; split <;> rfl

/-! `advance` -/

@[simp] theorem State.advance_params (s : State) : (s.advance).params = s.params := rfl
@[simp] theorem State.advance_regs (s : State) : (s.advance).regs = s.regs := rfl
@[simp] theorem State.advance_pc (s : State) : (s.advance).pc = s.pc + 1 := rfl
@[simp] theorem State.advance_cctrl (s : State) : (s.advance).cctrl = s.cctrl := rfl
@[simp] theorem State.advance_estat (s : State) : (s.advance).estat = s.estat := rfl
@[simp] theorem State.advance_evec (s : State) : (s.advance).evec = s.evec := rfl
@[simp] theorem State.advance_ear (s : State) : (s.advance).ear = s.ear := rfl
@[simp] theorem State.advance_ers (s : State) : (s.advance).ers = s.ers := rfl
@[simp] theorem State.advance_icount (s : State) : (s.advance).icount = s.icount := rfl
@[simp] theorem State.advance_ccount (s : State) : (s.advance).ccount = s.ccount := rfl
@[simp] theorem State.advance_ptable (s : State) : (s.advance).ptable = s.ptable := rfl
@[simp] theorem State.advance_rbase (s : State) : (s.advance).rbase = s.rbase := rfl
@[simp] theorem State.advance_mem (s : State) : (s.advance).mem = s.mem := rfl
@[simp] theorem State.advance_serial1 (s : State) : (s.advance).serial1 = s.serial1 := rfl
@[simp] theorem State.advance_serial2 (s : State) : (s.advance).serial2 = s.serial2 := rfl
@[simp] theorem State.advance_parallel (s : State) : (s.advance).parallel = s.parallel := rfl
@[simp] theorem State.advance_timer (s : State) : (s.advance).timer = s.timer := rfl
@[simp] theorem State.advance_userPending (s : State) : (s.advance).userPending = s.userPending := rfl
@[simp] theorem State.advance_draws (s : State) : (s.advance).draws = s.draws := rfl
@[simp] theorem State.advance_ramEpoch (s : State) : (s.advance).ramEpoch = s.ramEpoch := rfl
@[simp] theorem State.advance_script (s : State) : (s.advance).script = s.script := rfl

/-! `jump` -/

@[simp] theorem State.jump_params (s : State) (a : Addr) : (s.jump a).params = s.params := rfl
@[simp] theorem State.jump_regs (s : State) (a : Addr) : (s.jump a).regs = s.regs := rfl
@[simp] theorem State.jump_pc (s : State) (a : Addr) : (s.jump a).pc = a := rfl
@[simp] theorem State.jump_cctrl (s : State) (a : Addr) : (s.jump a).cctrl = s.cctrl := rfl
@[simp] theorem State.jump_estat (s : State) (a : Addr) : (s.jump a).estat = s.estat := rfl
@[simp] theorem State.jump_evec (s : State) (a : Addr) : (s.jump a).evec = s.evec := rfl
@[simp] theorem State.jump_ear (s : State) (a : Addr) : (s.jump a).ear = s.ear := rfl
@[simp] theorem State.jump_ers (s : State) (a : Addr) : (s.jump a).ers = s.ers := rfl
@[simp] theorem State.jump_icount (s : State) (a : Addr) : (s.jump a).icount = s.icount := rfl
@[simp] theorem State.jump_ccount (s : State) (a : Addr) : (s.jump a).ccount = s.ccount := rfl
@[simp] theorem State.jump_ptable (s : State) (a : Addr) : (s.jump a).ptable = s.ptable := rfl
@[simp] theorem State.jump_rbase (s : State) (a : Addr) : (s.jump a).rbase = s.rbase := rfl
@[simp] theorem State.jump_mem (s : State) (a : Addr) : (s.jump a).mem = s.mem := rfl
@[simp] theorem State.jump_serial1 (s : State) (a : Addr) : (s.jump a).serial1 = s.serial1 := rfl
@[simp] theorem State.jump_serial2 (s : State) (a : Addr) : (s.jump a).serial2 = s.serial2 := rfl
@[simp] theorem State.jump_parallel (s : State) (a : Addr) : (s.jump a).parallel = s.parallel := rfl
@[simp] theorem State.jump_timer (s : State) (a : Addr) : (s.jump a).timer = s.timer := rfl
@[simp] theorem State.jump_userPending (s : State) (a : Addr) : (s.jump a).userPending = s.userPending := rfl
@[simp] theorem State.jump_draws (s : State) (a : Addr) : (s.jump a).draws = s.draws := rfl
@[simp] theorem State.jump_ramEpoch (s : State) (a : Addr) : (s.jump a).ramEpoch = s.ramEpoch := rfl
@[simp] theorem State.jump_script (s : State) (a : Addr) : (s.jump a).script = s.script := rfl

/-! `drawn` -/

@[simp] theorem State.drawn_params (s : State) : (s.drawn).params = s.params := rfl
@[simp] theorem State.drawn_regs (s : State) : (s.drawn).regs = s.regs := rfl
@[simp] theorem State.drawn_pc (s : State) : (s.drawn).pc = s.pc := rfl
@[simp] theorem State.drawn_cctrl (s : State) : (s.drawn).cctrl = s.cctrl := rfl
@[simp] theorem State.drawn_estat (s : State) : (s.drawn).estat = s.estat := rfl
@[simp] theorem State.drawn_evec (s : State) : (s.drawn).evec = s.evec := rfl
@[simp] theorem State.drawn_ear (s : State) : (s.drawn).ear = s.ear := rfl
@[simp] theorem State.drawn_ers (s : State) : (s.drawn).ers = s.ers := rfl
@[simp] theorem State.drawn_icount (s : State) : (s.drawn).icount = s.icount := rfl
@[simp] theorem State.drawn_ccount (s : State) : (s.drawn).ccount = s.ccount := rfl
@[simp] theorem State.drawn_ptable (s : State) : (s.drawn).ptable = s.ptable := rfl
@[simp] theorem State.drawn_rbase (s : State) : (s.drawn).rbase = s.rbase := rfl
@[simp] theorem State.drawn_mem (s : State) : (s.drawn).mem = s.mem := rfl
@[simp] theorem State.drawn_serial1 (s : State) : (s.drawn).serial1 = s.serial1 := rfl
@[simp] theorem State.drawn_serial2 (s : State) : (s.drawn).serial2 = s.serial2 := rfl
@[simp] theorem State.drawn_parallel (s : State) : (s.drawn).parallel = s.parallel := rfl
@[simp] theorem State.drawn_timer (s : State) : (s.drawn).timer = s.timer := rfl
@[simp] theorem State.drawn_userPending (s : State) : (s.drawn).userPending = s.userPending := rfl
@[simp] theorem State.drawn_draws (s : State) : (s.drawn).draws = s.draws + 1 := rfl
@[simp] theorem State.drawn_ramEpoch (s : State) : (s.drawn).ramEpoch = s.ramEpoch := rfl
@[simp] theorem State.drawn_script (s : State) : (s.drawn).script = s.script := rfl

/-! `writeWord` -/

@[simp] theorem State.writeWord_params (s : State) (a : Addr) (v : Word) : (s.writeWord a v).params = s.params := rfl
@[simp] theorem State.writeWord_regs (s : State) (a : Addr) (v : Word) : (s.writeWord a v).regs = s.regs := rfl
@[simp] theorem State.writeWord_pc (s : State) (a : Addr) (v : Word) : (s.writeWord a v).pc = s.pc := rfl
@[simp] theorem State.writeWord_cctrl (s : State) (a : Addr) (v : Word) : (s.writeWord a v).cctrl = s.cctrl := rfl
@[simp] theorem State.writeWord_estat (s : State) (a : Addr) (v : Word) : (s.writeWord a v).estat = s.estat := rfl
@[simp] theorem State.writeWord_evec (s : State) (a : Addr) (v : Word) : (s.writeWord a v).evec = s.evec := rfl
@[simp] theorem State.writeWord_ear (s : State) (a : Addr) (v : Word) : (s.writeWord a v).ear = s.ear := rfl
@[simp] theorem State.writeWord_ers (s : State) (a : Addr) (v : Word) : (s.writeWord a v).ers = s.ers := rfl
@[simp] theorem State.writeWord_icount (s : State) (a : Addr) (v : Word) : (s.writeWord a v).icount = s.icount := rfl
@[simp] theorem State.writeWord_ccount (s : State) (a : Addr) (v : Word) : (s.writeWord a v).ccount = s.ccount := rfl
@[simp] theorem State.writeWord_ptable (s : State) (a : Addr) (v : Word) : (s.writeWord a v).ptable = s.ptable := rfl
@[simp] theorem State.writeWord_rbase (s : State) (a : Addr) (v : Word) : (s.writeWord a v).rbase = s.rbase := rfl
@[simp] theorem State.writeWord_mem (s : State) (a : Addr) (v : Word) : (s.writeWord a v).mem = s.mem.writeWord a v := rfl
@[simp] theorem State.writeWord_serial1 (s : State) (a : Addr) (v : Word) : (s.writeWord a v).serial1 = s.serial1 := rfl
@[simp] theorem State.writeWord_serial2 (s : State) (a : Addr) (v : Word) : (s.writeWord a v).serial2 = s.serial2 := rfl
@[simp] theorem State.writeWord_parallel (s : State) (a : Addr) (v : Word) : (s.writeWord a v).parallel = s.parallel := rfl
@[simp] theorem State.writeWord_timer (s : State) (a : Addr) (v : Word) : (s.writeWord a v).timer = s.timer := rfl
@[simp] theorem State.writeWord_userPending (s : State) (a : Addr) (v : Word) : (s.writeWord a v).userPending = s.userPending := rfl
@[simp] theorem State.writeWord_draws (s : State) (a : Addr) (v : Word) : (s.writeWord a v).draws = s.draws := rfl
@[simp] theorem State.writeWord_ramEpoch (s : State) (a : Addr) (v : Word) : (s.writeWord a v).ramEpoch = s.ramEpoch := rfl
@[simp] theorem State.writeWord_script (s : State) (a : Addr) (v : Word) : (s.writeWord a v).script = s.script := rfl

/-! `enter` -/

@[simp] theorem State.enter_params (s : State) (c : Option InternalCause) (ra : Addr) : (s.enter c ra).params = s.params := rfl
@[simp] theorem State.enter_regs (s : State) (c : Option InternalCause) (ra : Addr) : (s.enter c ra).regs = s.regs := rfl
@[simp] theorem State.enter_pc (s : State) (c : Option InternalCause) (ra : Addr) : (s.enter c ra).pc = s.evec.setWidth 20 := rfl
@[simp] theorem State.enter_cctrl (s : State) (c : Option InternalCause) (ra : Addr) : (s.enter c ra).cctrl = s.params.cctrl.enter s.cctrl := rfl
@[simp] theorem State.enter_estat (s : State) (c : Option InternalCause) (ra : Addr) : (s.enter c ra).estat = s.causeWord c := rfl
@[simp] theorem State.enter_evec (s : State) (c : Option InternalCause) (ra : Addr) : (s.enter c ra).evec = s.evec := rfl
@[simp] theorem State.enter_ear (s : State) (c : Option InternalCause) (ra : Addr) : (s.enter c ra).ear = ra.setWidth 32 := rfl
@[simp] theorem State.enter_ers (s : State) (c : Option InternalCause) (ra : Addr) : (s.enter c ra).ers = s.reg 13 := rfl
@[simp] theorem State.enter_icount (s : State) (c : Option InternalCause) (ra : Addr) : (s.enter c ra).icount = s.icount := rfl
@[simp] theorem State.enter_ccount (s : State) (c : Option InternalCause) (ra : Addr) : (s.enter c ra).ccount = s.ccount := rfl
@[simp] theorem State.enter_ptable (s : State) (c : Option InternalCause) (ra : Addr) : (s.enter c ra).ptable = s.ptable := rfl
@[simp] theorem State.enter_rbase (s : State) (c : Option InternalCause) (ra : Addr) : (s.enter c ra).rbase = s.rbase := rfl
@[simp] theorem State.enter_mem (s : State) (c : Option InternalCause) (ra : Addr) : (s.enter c ra).mem = s.mem := rfl
@[simp] theorem State.enter_serial1 (s : State) (c : Option InternalCause) (ra : Addr) : (s.enter c ra).serial1 = s.serial1 := rfl
@[simp] theorem State.enter_serial2 (s : State) (c : Option InternalCause) (ra : Addr) : (s.enter c ra).serial2 = s.serial2 := rfl
@[simp] theorem State.enter_parallel (s : State) (c : Option InternalCause) (ra : Addr) : (s.enter c ra).parallel = s.parallel := rfl
@[simp] theorem State.enter_timer (s : State) (c : Option InternalCause) (ra : Addr) : (s.enter c ra).timer = s.timer := rfl
@[simp] theorem State.enter_userPending (s : State) (c : Option InternalCause) (ra : Addr) : (s.enter c ra).userPending = s.userPending := rfl
@[simp] theorem State.enter_draws (s : State) (c : Option InternalCause) (ra : Addr) : (s.enter c ra).draws = s.draws + 1 := rfl
@[simp] theorem State.enter_ramEpoch (s : State) (c : Option InternalCause) (ra : Addr) : (s.enter c ra).ramEpoch = s.ramEpoch := rfl
@[simp] theorem State.enter_script (s : State) (c : Option InternalCause) (ra : Addr) : (s.enter c ra).script = s.script := rfl

/-! `setSerial` -/

@[simp] theorem State.setSerial_params (s : State) (p : SerialPortId) (port : SerialPort) : (s.setSerial p port).params = s.params := by cases p <;> rfl
@[simp] theorem State.setSerial_regs (s : State) (p : SerialPortId) (port : SerialPort) : (s.setSerial p port).regs = s.regs := by cases p <;> rfl
@[simp] theorem State.setSerial_pc (s : State) (p : SerialPortId) (port : SerialPort) : (s.setSerial p port).pc = s.pc := by cases p <;> rfl
@[simp] theorem State.setSerial_cctrl (s : State) (p : SerialPortId) (port : SerialPort) : (s.setSerial p port).cctrl = s.cctrl := by cases p <;> rfl
@[simp] theorem State.setSerial_estat (s : State) (p : SerialPortId) (port : SerialPort) : (s.setSerial p port).estat = s.estat := by cases p <;> rfl
@[simp] theorem State.setSerial_evec (s : State) (p : SerialPortId) (port : SerialPort) : (s.setSerial p port).evec = s.evec := by cases p <;> rfl
@[simp] theorem State.setSerial_ear (s : State) (p : SerialPortId) (port : SerialPort) : (s.setSerial p port).ear = s.ear := by cases p <;> rfl
@[simp] theorem State.setSerial_ers (s : State) (p : SerialPortId) (port : SerialPort) : (s.setSerial p port).ers = s.ers := by cases p <;> rfl
@[simp] theorem State.setSerial_icount (s : State) (p : SerialPortId) (port : SerialPort) : (s.setSerial p port).icount = s.icount := by cases p <;> rfl
@[simp] theorem State.setSerial_ccount (s : State) (p : SerialPortId) (port : SerialPort) : (s.setSerial p port).ccount = s.ccount := by cases p <;> rfl
@[simp] theorem State.setSerial_ptable (s : State) (p : SerialPortId) (port : SerialPort) : (s.setSerial p port).ptable = s.ptable := by cases p <;> rfl
@[simp] theorem State.setSerial_rbase (s : State) (p : SerialPortId) (port : SerialPort) : (s.setSerial p port).rbase = s.rbase := by cases p <;> rfl
@[simp] theorem State.setSerial_mem (s : State) (p : SerialPortId) (port : SerialPort) : (s.setSerial p port).mem = s.mem := by cases p <;> rfl
@[simp] theorem State.setSerial_parallel (s : State) (p : SerialPortId) (port : SerialPort) : (s.setSerial p port).parallel = s.parallel := by cases p <;> rfl
@[simp] theorem State.setSerial_timer (s : State) (p : SerialPortId) (port : SerialPort) : (s.setSerial p port).timer = s.timer := by cases p <;> rfl
@[simp] theorem State.setSerial_userPending (s : State) (p : SerialPortId) (port : SerialPort) : (s.setSerial p port).userPending = s.userPending := by cases p <;> rfl
@[simp] theorem State.setSerial_draws (s : State) (p : SerialPortId) (port : SerialPort) : (s.setSerial p port).draws = s.draws := by cases p <;> rfl
@[simp] theorem State.setSerial_ramEpoch (s : State) (p : SerialPortId) (port : SerialPort) : (s.setSerial p port).ramEpoch = s.ramEpoch := by cases p <;> rfl
@[simp] theorem State.setSerial_script (s : State) (p : SerialPortId) (port : SerialPort) : (s.setSerial p port).script = s.script := by cases p <;> rfl

/-! Registers and bytes after the updates that do not touch them. -/

@[simp] theorem State.advance_reg (s : State) (q : RegNum) : (s.advance).reg q = s.reg q := rfl
@[simp] theorem State.jump_reg (s : State) (a : Addr) (q : RegNum) : (s.jump a).reg q = s.reg q := rfl
@[simp] theorem State.drawn_reg (s : State) (q : RegNum) : (s.drawn).reg q = s.reg q := rfl
@[simp] theorem State.writeWord_reg (s : State) (a : Addr) (v : Word) (q : RegNum) : (s.writeWord a v).reg q = s.reg q := rfl
@[simp] theorem State.enter_reg (s : State) (c : Option InternalCause) (ra : Addr) (q : RegNum) : (s.enter c ra).reg q = s.reg q := rfl
@[simp] theorem State.setSerial_reg (s : State) (p : SerialPortId) (port : SerialPort) (q : RegNum) : (s.setSerial p port).reg q = s.reg q := by cases p <;> rfl

@[simp] theorem State.setReg_readByte (s : State) (r : RegNum) (v : Word) (k : Nat) : (s.setReg r v).readByte k = s.readByte k := by unfold State.setReg; split <;> rfl
@[simp] theorem State.setReg_readWord (s : State) (r : RegNum) (v : Word) (q : Addr) : (s.setReg r v).readWord q = s.readWord q := by unfold State.setReg; split <;> rfl
@[simp] theorem State.advance_readByte (s : State) (k : Nat) : (s.advance).readByte k = s.readByte k := rfl
@[simp] theorem State.advance_readWord (s : State) (q : Addr) : (s.advance).readWord q = s.readWord q := rfl
@[simp] theorem State.jump_readByte (s : State) (a : Addr) (k : Nat) : (s.jump a).readByte k = s.readByte k := rfl
@[simp] theorem State.jump_readWord (s : State) (a : Addr) (q : Addr) : (s.jump a).readWord q = s.readWord q := rfl
@[simp] theorem State.drawn_readByte (s : State) (k : Nat) : (s.drawn).readByte k = s.readByte k := rfl
@[simp] theorem State.drawn_readWord (s : State) (q : Addr) : (s.drawn).readWord q = s.readWord q := rfl
@[simp] theorem State.enter_readByte (s : State) (c : Option InternalCause) (ra : Addr) (k : Nat) : (s.enter c ra).readByte k = s.readByte k := rfl
@[simp] theorem State.enter_readWord (s : State) (c : Option InternalCause) (ra : Addr) (q : Addr) : (s.enter c ra).readWord q = s.readWord q := rfl
@[simp] theorem State.setSerial_readByte (s : State) (p : SerialPortId) (port : SerialPort) (k : Nat) : (s.setSerial p port).readByte k = s.readByte k := by cases p <;> rfl
@[simp] theorem State.setSerial_readWord (s : State) (p : SerialPortId) (port : SerialPort) (q : Addr) : (s.setSerial p port).readWord q = s.readWord q := by cases p <;> rfl

end Sys2Proof.Machine
end

