-- ==== Sys2Proof/Laws/Registers.lean ====
section
/-! SUPPORT. Reads and writes of the general registers (spec/10_state.md R20, R21), and what `retire` does. -/

namespace Sys2Proof.Machine

@[simp] theorem State.reg_zero (s : State) : s.reg 0#4 = 0#32 := rfl

@[simp] theorem State.setReg_zero (s : State) (v : Word) : s.setReg 0#4 v = s := rfl

/-- A register reads the value written to it. -/
theorem State.setReg_reg_self (s : State) (r : RegNum) (v : Word) (h : r ≠ 0) : (s.setReg r v).reg r = v := by
  simp only [State.reg, State.setReg, if_neg h, Vector.getElem_set_self]

/-- A write of one register leaves every other one alone. -/
theorem State.setReg_reg_other (s : State) {r q : RegNum} (v : Word) (h : q ≠ r) : (s.setReg r v).reg q = s.reg q := by
  have hn : r.toNat ≠ q.toNat := fun e => h (BitVec.eq_of_toNat_eq e.symm)
  by_cases h0 : r = 0
  · simp only [State.setReg, if_pos h0]
  · simp only [State.reg, State.setReg, if_neg h0]
    rw [Vector.getElem_set_ne _ _ hn]

/-- A register after a write of `rd`, whichever it is. -/
theorem State.setReg_reg_dest (s : State) (rd : RegNum) (v : Word) :
    (s.setReg rd v).reg rd = if rd = 0 then 0 else v := by
  split
  · next h => subst h; rfl
  · next h => exact s.setReg_reg_self rd v h

theorem SameSpecial.refl (s : State) : SameSpecial s s := ⟨rfl, rfl, rfl, rfl, rfl, rfl, rfl, rfl, rfl, rfl⟩

theorem SameDevices.refl (s : State) : SameDevices s s := ⟨rfl, rfl, rfl, rfl, rfl, rfl⟩

/-- What `retire` does: `x[rd]` takes the value, the program counter advances, all else stays. -/
theorem State.retire_completes (s : State) (rd : RegNum) (v : Word) :
    ∃ t, s.retire rd v = .next t ∧ Completes rd v s t :=
  ⟨_, rfl,
    { result := by simp [State.setReg_reg_dest]
      others := fun q h => by simp [State.setReg_reg_other, h]
      pc := by simp
      special := by constructor <;> simp
      memory := fun k => by simp
      devices := by constructor <;> simp }⟩

/-- What `jump` does. -/
theorem State.jump_jumps (s : State) (a : Addr) : Jumps a s (s.jump a) :=
  { pc := rfl
    registers := fun _ => rfl
    special := by constructor <;> rfl
    memory := fun _ => rfl
    devices := by constructor <;> rfl }

/-- What a jump that links does. -/
theorem State.link_links (s : State) (a : Addr) :
    Links a s ((s.setReg 15 ((s.pc + 1).setWidth 32)).jump a) :=
  { pc := rfl
    link := by rw [State.jump_reg, State.setReg_reg_self _ _ _ (by decide)]
    others := fun q h => by rw [State.jump_reg, State.setReg_reg_other _ _ h]
    special := by constructor <;> simp
    memory := fun k => by simp
    devices := by constructor <;> simp }

end Sys2Proof.Machine
end

