-- ==== Sys2Proof/Laws/Access.lean ====
section
/-! SUPPORT. The address path: what an access that is made can do, and when it is made (spec/20_memory.md R63, R70 to
R74). -/

namespace Sys2Proof.Machine

/-! ## The map -/

/-- An address of RAM (spec/20_memory.md R64). -/
theorem regionOf_ram {a : Addr} (h : a.toNat < 0x4000) : regionOf a = .ram := by
  simp [regionOf, h]

/-- An address of ROM (spec/20_memory.md R65). -/
theorem regionOf_rom {a : Addr} (h : 0x80000 ≤ a.toNat ∧ a.toNat < 0x88000) : regionOf a = .rom := by
  have : ¬a.toNat < 0x4000 := by omega
  simp [regionOf, this, h]

/-- An access to RAM or ROM is one to a word below 0x4000 or in 0x80000 to 0x87FFF. -/
theorem regionOf_memory {a : Addr} (h : regionOf a = .ram ∨ regionOf a = .rom) :
    a.toNat < 0x4000 ∨ 0x80000 ≤ a.toNat ∧ a.toNat < 0x88000 := by
  by_contra hn
  have h1 : ¬a.toNat < 0x4000 := fun e => hn (.inl e)
  have h2 : ¬(0x80000 ≤ a.toNat ∧ a.toNat < 0x88000) := fun e => hn (.inr e)
  have key : regionOf a ≠ .ram ∧ regionOf a ≠ .rom := by
    simp only [regionOf, if_neg h1, if_neg h2]
    split
    · exact ⟨by simp, by simp⟩
    · split
      · cases serialRegAt (a.toNat % 0x1000) <;> simp
      · cases serialRegAt (a.toNat % 0x1000) <;> simp
      · cases timerRegAt (a.toNat % 0x1000) <;> simp
      · cases parallelRegAt (a.toNat % 0x1000) <;> simp
      · exact ⟨by simp, by simp⟩
  rcases h with h | h
  · exact key.1 h
  · exact key.2 h

/-! ## Reads -/

/-- What a read of the bus can change: the free values drawn, and a serial port it reads. -/
structure ReadFrame (s t : State) : Prop where
  regs : t.regs = s.regs
  pc : t.pc = s.pc
  special : SameSpecial s t
  mem : t.mem = s.mem
  ramEpoch : t.ramEpoch = s.ramEpoch
  parallel : t.parallel = s.parallel
  timer : t.timer = s.timer
  userPending : t.userPending = s.userPending
  script : t.script = s.script

theorem ReadFrame.memory {s t : State} (h : ReadFrame s t) : SameMemory s t := fun k => by
  unfold State.readByte; rw [h.mem, h.ramEpoch]

theorem ReadFrame.registers {s t : State} (h : ReadFrame s t) : SameRegisters s t := fun r => by
  unfold State.reg; rw [h.regs]

/-- Everything a read of the bus can do. -/
theorem State.busRead_done {s t : State} {a : Addr} {v : Word} (h : s.busRead a = .done v t) : ReadFrame s t := by
  have self : ReadFrame s s := ⟨rfl, rfl, .refl s, rfl, rfl, rfl, rfl, rfl, rfl⟩
  have drawn : ReadFrame s s.drawn :=
    ⟨rfl, rfl, ⟨rfl, rfl, rfl, rfl, rfl, rfl, rfl, rfl, rfl, rfl⟩, rfl, rfl, rfl, rfl, rfl, rfl⟩
  unfold State.busRead at h
  split at h
  · injection h with _ h; exact h ▸ self
  · injection h with _ h; exact h ▸ self
  · split at h
    · injection h with _ h
      subst h
      exact ⟨by simp, by simp, by constructor <;> simp, by simp, by simp, by simp, by simp, by simp, by simp⟩
    · cases h
  · injection h with _ h; exact h ▸ drawn
  · injection h with _ h; exact h ▸ drawn
  · cases h
  · cases h

/-- A read of RAM or ROM gives the word there and changes nothing. -/
theorem State.busRead_memory (s : State) {a : Addr} (h : a.toNat < 0x4000 ∨ 0x80000 ≤ a.toNat ∧ a.toNat < 0x88000) :
    s.busRead a = .done (s.readWord a) s := by
  unfold State.busRead
  rcases h with h | h
  · rw [regionOf_ram h]
  · rw [regionOf_rom h]

/-! ## Writes -/

/-- What a write of the bus can change: a word of RAM, or a device. -/
structure WriteFrame (a : Addr) (v : Word) (s t : State) : Prop where
  regs : t.regs = s.regs
  pc : t.pc = s.pc
  special : SameSpecial s t
  mem : t.mem = s.mem ∨ a.toNat < 0x4000 ∧ t.mem = s.mem.writeWord a v
  ramEpoch : t.ramEpoch = s.ramEpoch
  script : t.script = s.script
  prescaler : t.timer.prescaler = s.timer.prescaler

theorem WriteFrame.registers {a : Addr} {v : Word} {s t : State} (h : WriteFrame a v s t) : SameRegisters s t :=
  fun r => by unfold State.reg; rw [h.regs]

/-- Outside the word written, memory reads as before. -/
theorem WriteFrame.memory {a : Addr} {v : Word} {s t : State} (h : WriteFrame a v s t)
    (hw : ∀ k, k < 4 * a.toNat ∨ 4 * a.toNat + 4 ≤ k → (s.writeWord a v).readByte k = s.readByte k) :
    SameMemoryBut a s t := fun k hk => by
  rcases h.mem with e | ⟨_, e⟩
  · unfold State.readByte; rw [e, h.ramEpoch]
  · rw [← hw k hk]; unfold State.readByte; rw [e, h.ramEpoch]; rfl

/-- A store to a timer register leaves the prescaler alone. -/
theorem Timer.storeReg_prescaler {t u : Timer} {l : TimerLayout} {r : TimerReg} {v : Word}
    (h : t.storeReg l r v = .ok u) :
    u.prescaler = t.prescaler := by
  cases r with
  | control =>
    simp only [Timer.storeReg, Timer.storeControl] at h
    split at h
    · split at h
      · cases h
      · injection h with h; subst h; rfl
    · injection h with h; subst h; rfl
  | load => injection h with h; subst h; rfl
  | count => cases h
  | acknowledge =>
    simp only [Timer.storeReg] at h
    split at h
    · injection h with h; subst h; rfl
    · cases h

/-- Everything a write of the bus can do. -/
theorem State.busWrite_done {s t : State} {a : Addr} {v : Word} (h : s.busWrite a v = .done () t) :
    WriteFrame a v s t := by
  unfold State.busWrite at h
  split at h
  · next hr =>
    injection h with _ h
    subst h
    have hn : a.toNat < 0x4000 := by
      by_contra hn
      rcases regionOf_memory (.inl hr) with h' | h'
      · exact hn h'
      · rw [regionOf_rom h'] at hr; cases hr
    exact ⟨rfl, rfl, ⟨rfl, rfl, rfl, rfl, rfl, rfl, rfl, rfl, rfl, rfl⟩, .inr ⟨hn, rfl⟩, rfl, rfl, rfl⟩
  · cases h
  · split at h
    · injection h with _ h
      subst h
      exact ⟨by simp, by simp, by constructor <;> simp, .inl (by simp), by simp, by simp, by simp⟩
    · cases h
  · split at h
    · next ht =>
      injection h with _ h
      subst h
      exact ⟨rfl, rfl, ⟨rfl, rfl, rfl, rfl, rfl, rfl, rfl, rfl, rfl, rfl⟩, .inl rfl, rfl, rfl, Timer.storeReg_prescaler ht⟩
    · cases h
  · split at h
    · injection h with _ h
      subst h
      exact ⟨rfl, rfl, ⟨rfl, rfl, rfl, rfl, rfl, rfl, rfl, rfl, rfl, rfl⟩, .inl rfl, rfl, rfl, rfl⟩
    · cases h
  · split at h
    · injection h with _ h
      subst h
      exact ⟨rfl, rfl, ⟨rfl, rfl, rfl, rfl, rfl, rfl, rfl, rfl, rfl, rfl⟩, .inl rfl, rfl, rfl, rfl⟩
    · cases h
  · cases h

/-- A write of RAM writes the word and nothing else. -/
theorem State.busWrite_ram (s : State) {a : Addr} (v : Word) (h : a.toNat < 0x4000) :
    s.busWrite a v = .done () (s.writeWord a v) := by
  unfold State.busWrite
  rw [regionOf_ram h]

/-! ## The protection check -/

/-- An access under the check is made in kernel mode, or where the table allows it; and it is then the access itself. -/
theorem State.checked_done {α : Type} {s t : State} {a : Addr} {go : Access α} {v : α}
    (h : s.checked a go = .done v t) : go = .done v t ∧ (s.ku = true ∨ s.tableInMemory = true ∧ s.allowed a = true) := by
  unfold State.checked at h
  by_cases hk : s.ku = true
  · rw [if_pos hk] at h; exact ⟨h, .inl hk⟩
  · by_cases ht : s.tableInMemory = true
    · by_cases ha : s.allowed a = true
      · simp only [hk, ht, ha, if_true] at h
        exact ⟨by simpa using h, .inr ⟨ht, ha⟩⟩
      · simp [hk, ht, ha] at h
    · simp [hk, ht] at h

/-- The access in kernel mode, and in user mode where the table allows it. -/
theorem State.checked_open {α : Type} (s : State) (a : Addr) (go : Access α)
    (h : s.ku = true ∨ s.tableInMemory = true ∧ s.allowed a = true) : s.checked a go = go := by
  unfold State.checked
  rcases h with h | ⟨h1, h2⟩
  · rw [if_pos h]
  · simp [h1, h2]

/-- In user mode, where the table forbids it, the access is not made. -/
theorem State.checked_forbidden {α : Type} (s : State) (a : Addr) (go : Access α) (hk : s.ku = false)
    (ht : s.tableInMemory = true) (ha : s.allowed a = false) : s.checked a go = .protectionFault := by
  simp [State.checked, hk, ht, ha]

end Sys2Proof.Machine
end

