-- ==== Sys2Proof/Laws/Bits.lean ====
section
/-! SUPPORT. The bit-field helpers: a flag after it is written, the low bits of a narrow register on a load. -/

namespace Sys2Proof.Machine

/-- Bit `j` of a register whose bit `i` was written. -/
theorem setFlag_getLsbD {n : Nat} (v : BitVec n) (i j : Nat) (b : Bool) (hi : i < n) :
    (setFlag v i b).getLsbD j = if j = i then b else v.getLsbD j := by
  by_cases hj : j < n
  · by_cases e : j = i
    · subst e; cases b <;> simp [setFlag, hj]
    · rcases Nat.lt_or_gt_of_ne e with h | h
      · cases b <;> simp [setFlag, hj, e, h]
      · have : j - i ≠ 0 := by omega
        cases b <;> simp [setFlag, hj, e, this]
  · have hji : j ≠ i := by omega
    have hge : ∀ w : BitVec n, w.getLsbD j = false := fun w => BitVec.getLsbD_of_ge w j (by omega)
    simp [hji, hge]

/-- The same, where the bit is a field of a register's layout. -/
theorem setFlag_flag {n : Nat} (v : BitVec n) (i : Fin n) (j : Nat) (b : Bool) :
    (setFlag v i b).getLsbD j = if j = i then b else v.getLsbD j :=
  setFlag_getLsbD v i j b i.isLt

/-- The low bits of what a load of a narrow register returns are the register. -/
theorem loadNarrow_low {n : Nat} (v : BitVec n) (free : Word) (hn : n ≤ 32) :
    (loadNarrow v free).setWidth n = v := by
  apply BitVec.eq_of_getLsbD_eq
  intro i hi
  have : i < 32 := by omega
  simp [loadNarrow, hi, this]

/-- A store to an acknowledge register that writes 1 over set bits only leaves what it writes. -/
theorem acknowledge_eq_some {n : Nat} {old new : BitVec n}
    (h : ∀ i, i < n → new.getLsbD i = true → old.getLsbD i = true) : acknowledge old new = some new := by
  have hz : new &&& ~~~old = 0 := by
    apply BitVec.eq_of_getLsbD_eq
    intro i hi
    have := h i hi
    cases hn : new.getLsbD i <;> simp_all
  have ha : old &&& new = new := by
    apply BitVec.eq_of_getLsbD_eq
    intro i hi
    have := h i hi
    cases hn : new.getLsbD i <;> simp_all
  rw [acknowledge, if_pos hz, ha]

/-- A store to an acknowledge register that writes 1 over a clear bit has no meaning. -/
theorem acknowledge_eq_none {n : Nat} {old new : BitVec n} {i : Nat} (hi : i < n) (hn : new.getLsbD i = true)
    (ho : old.getLsbD i = false) : acknowledge old new = none := by
  rw [acknowledge, if_neg]
  intro h
  have := congrArg (fun v => BitVec.getLsbD v i) h
  simp only [BitVec.getLsbD_and, BitVec.getLsbD_not, hi, hn, ho] at this
  simp at this

/-- A store to an acknowledge register keeps exactly the set bits over which 1 is written. -/
theorem acknowledge_some {n : Nat} {old new kept : BitVec n} (h : acknowledge old new = some kept) :
    kept = old &&& new ∧ new &&& ~~~old = 0 := by
  unfold acknowledge at h
  split at h
  · next hz => exact ⟨(Option.some.inj h).symm, hz⟩
  · exact absurd h (by simp)

end Sys2Proof.Machine
end

