-- ==== Sys2Proof/Laws/Devices.lean ====
section
/-! SUPPORT. The device registers, bit by bit under any layout: what a register reads, what a store to a serial control
register can do, which pending bit an event sets, what a display lights (spec/60_exceptions.md R313 to R316, R323, R331,
R334). -/

namespace Sys2Proof.Machine

/-! ## The timer's registers -/

/-- The bits of the timer's control register. -/
theorem Timer.controlReg_getLsbD (t : Timer) (l : TimerLayout) :
    (t.controlReg l).getLsbD l.enable = t.enable ∧ (t.controlReg l).getLsbD l.auto = t.auto := by
  have h : (l.enable : Nat) ≠ l.auto := by simpa [Fin.ext_iff] using l.controlDistinct
  simp only [Timer.controlReg, setFlag_flag, if_neg h, if_true, and_self]

/-- The bits of the timer's acknowledge register. -/
theorem Timer.acknowledgeReg_getLsbD (t : Timer) (l : TimerLayout) :
    (t.acknowledgeReg l).getLsbD l.pending = t.pending ∧ (t.acknowledgeReg l).getLsbD l.overrun = t.overrun := by
  have h : (l.pending : Nat) ≠ l.overrun := by simpa [Fin.ext_iff] using l.iackDistinct
  simp only [Timer.acknowledgeReg, setFlag_flag, if_neg h, if_true, and_self]

/-! ## The serial ports -/

/-- The positions of the bits of the serial status register. -/
theorem SerialLayout.statusPositions (l : SerialLayout) :
    0 ≠ (l.overrun : Nat) ∧ 0 ≠ (l.parity : Nat) ∧ 0 ≠ (l.frame : Nat) ∧ 1 ≠ (l.overrun : Nat) ∧ 1 ≠ (l.parity : Nat) ∧
      1 ≠ (l.frame : Nat) ∧ (l.overrun : Nat) ≠ l.parity ∧ (l.overrun : Nat) ≠ l.frame ∧ (l.parity : Nat) ≠ l.frame := by
  have h := l.statusDistinct
  simp only [List.nodup_cons, List.mem_cons, List.not_mem_nil, or_false, not_or, Fin.ext_iff] at h
  obtain ⟨⟨-, h1, h2, h3⟩, ⟨h4, h5, h6⟩, ⟨h7, h8⟩, h9, -⟩ := h
  exact ⟨h1, h2, h3, h4, h5, h6, h7, h8, h9⟩

/-- The stated bits of the serial status register, and its error bits where the environment reports them. -/
theorem SerialPort.status_getLsbD (p : SerialPort) (l : SerialLayout) (free : Word) :
    (p.status l free).getLsbD 0 = p.ready ∧ (p.status l free).getLsbD 1 = p.tds ∧
      ∀ e, p.errors = some e → (p.status l free).getLsbD l.overrun = e.getLsbD 0 ∧
        (p.status l free).getLsbD l.parity = e.getLsbD 1 ∧ (p.status l free).getLsbD l.frame = e.getLsbD 2 := by
  obtain ⟨h1, h2, h3, h4, h5, h6, h7, h8, h9⟩ := l.statusPositions
  simp only [SerialPort.status, setFlag_flag]
  refine ⟨?_, ?_, fun e he => ?_⟩
  · rw [if_neg h3, if_neg h2, if_neg h1, setFlag_getLsbD _ _ _ _ (by decide), if_neg (by decide),
      setFlag_getLsbD _ _ _ _ (by decide), if_pos rfl]
  · rw [if_neg h6, if_neg h5, if_neg h4, setFlag_getLsbD _ _ _ _ (by decide), if_pos rfl]
  · rw [he, Option.getD_some, if_neg h8, if_neg h7, if_neg h9]
    exact ⟨if_pos trivial, if_pos trivial, if_pos trivial⟩

/-- What an event of a serial port changes: its pending bit, where the enable bit is 1. -/
theorem SerialPort.signalEvent_spec (p : SerialPort) (enableBit : Fin 11) (pendingBit : Fin 3) :
    ∃ pending : BitVec 3, p.signalEvent enableBit pendingBit = { p with pending := pending } ∧
      ∀ i, pending.getLsbD i = (p.pending.getLsbD i || (decide (i = pendingBit) && p.control.getLsbD enableBit)) := by
  unfold SerialPort.signalEvent
  split
  · next h =>
    refine ⟨_, rfl, fun i => ?_⟩
    rw [setFlag_flag, h]
    by_cases hb : i = pendingBit <;> simp [hb]
  · next h =>
    rw [Bool.not_eq_true] at h
    exact ⟨p.pending, rfl, fun i => by rw [h, Bool.and_false, Bool.or_false]⟩

/-- Everything a store to the serial control register can do: the pending bits not among the three of an enable bit that it
turns on while its condition holds are as they were. -/
theorem SerialPort.storeControl_spec (p : SerialPort) (l : SerialLayout) (new : BitVec 11) (free : Word) :
    ∃ pending : BitVec 3, p.storeControl l new free = { p with control := new, pending := pending } ∧
      ∀ i,
        ¬(i = (l.iackRx : Nat) ∧ new.getLsbD l.rxie = true ∧ p.control.getLsbD l.rxie = false ∧ p.ready = true) →
        ¬(i = 1 ∧ new.getLsbD l.txie = true ∧ p.control.getLsbD l.txie = false ∧ p.tds = true) →
        ¬(i = (l.iackErr : Nat) ∧ new.getLsbD l.errie = true ∧ p.control.getLsbD l.errie = false ∧
          p.errorMayHold = true) →
        pending.getLsbD i = p.pending.getLsbD i := by
  have mark : ∀ (v : BitVec 3) (b : Fin 3) (new old holds x : Bool) (i : Nat),
      ¬(i = b ∧ new = true ∧ old = false ∧ holds = true) →
      (if new && !old && holds then setFlag v b x else v).getLsbD i = v.getLsbD i := by
    intro v b new old holds x i h
    split
    · next hc =>
      rw [setFlag_flag, if_neg]
      simp only [Bool.and_eq_true, Bool.not_eq_true'] at hc
      exact fun hi => h ⟨hi, hc.1.1, hc.1.2, hc.2⟩
    · rfl
  exact ⟨_, rfl, fun i h1 h2 h3 =>
    (mark _ _ _ _ _ _ i h3).trans ((mark _ 1 _ _ _ _ i h2).trans (mark _ _ _ _ _ _ i h1))⟩

/-! ## The displays -/

/-- Writing the flags of a list of positions, each from `f`, sets them and leaves the others. -/
theorem foldl_setFlag {n : Nat} (f : Fin n → Bool) (positions : List (Fin n)) (v : BitVec n) (j : Fin n) :
    (positions.foldl (fun acc (i : Fin n) => setFlag acc i (f i)) v).getLsbD j = if j ∈ positions then f j else v.getLsbD j := by
  induction positions generalizing v with
  | nil => rfl
  | cons i rest ih =>
    rw [List.foldl_cons, ih, setFlag_flag]
    by_cases hj : j ∈ rest
    · rw [if_pos hj, if_pos (List.mem_cons_of_mem i hj)]
    · by_cases e : j = i
      · subst e; simp [hj]
      · rw [if_neg hj, if_neg (fun h => e (Fin.ext h)), if_neg (by simp [e, hj])]

/-- Which elements a display register lights. -/
theorem ParallelLayout.lit_getLsbD (l : ParallelLayout) (v : BitVec 8) (j : Fin 8) :
    (l.lit v).getLsbD j = v.getLsbD l.segmentMap[j] := by
  rw [ParallelLayout.lit, foldl_setFlag (fun i => v.getLsbD l.segmentMap[i]), if_pos (List.mem_finRange j)]

end Sys2Proof.Machine
end

