-- ==== Sys2Proof/Laws/Encoding.lean ====
section
/-! SUPPORT. The fields of a word built by one of the three formats (spec/30_encoding.md R92 to R95), and the format built
from the fields of a word. -/

namespace Sys2Proof

/-- Every bit of a field that a word was built from. -/
theorem extract_of_getLsbD {n : Nat} (w : Word) (lo : Nat) (f : BitVec n)
    (h : ∀ i, i < n → w.getLsbD (lo + i) = f.getLsbD i) : w.extractLsb' lo n = f := by
  apply BitVec.eq_of_getLsbD_eq
  intro i hi
  simp [hi, h i hi]

theorem opOf_rType (op : BitVec 4) (rd rs : RegNum) (func : BitVec 4) (rt : RegNum) : opOf (rType op rd rs func rt) = op :=
  extract_of_getLsbD _ _ _ fun i hi => by
    simp only [rType, BitVec.getLsbD_append]; split_ifs <;> first | omega | (congr 1; omega)
theorem rdOf_rType (op : BitVec 4) (rd rs : RegNum) (func : BitVec 4) (rt : RegNum) : rdOf (rType op rd rs func rt) = rd :=
  extract_of_getLsbD _ _ _ fun i hi => by
    simp only [rType, BitVec.getLsbD_append]; split_ifs <;> first | omega | (congr 1; omega)
theorem rsOf_rType (op : BitVec 4) (rd rs : RegNum) (func : BitVec 4) (rt : RegNum) : rsOf (rType op rd rs func rt) = rs :=
  extract_of_getLsbD _ _ _ fun i hi => by
    simp only [rType, BitVec.getLsbD_append]; split_ifs <;> first | omega | (congr 1; omega)
theorem funcOf_rType (op : BitVec 4) (rd rs : RegNum) (func : BitVec 4) (rt : RegNum) : funcOf (rType op rd rs func rt) = func :=
  extract_of_getLsbD _ _ _ fun i hi => by
    simp only [rType, BitVec.getLsbD_append]; split_ifs <;> first | omega | (congr 1; omega)
theorem zeroOf_rType (op : BitVec 4) (rd rs : RegNum) (func : BitVec 4) (rt : RegNum) : zeroOf (rType op rd rs func rt) = 0 :=
  extract_of_getLsbD _ _ _ fun i hi => by
    simp only [rType, BitVec.getLsbD_append]; split_ifs <;> first | omega | (congr 1; omega)
theorem rtOf_rType (op : BitVec 4) (rd rs : RegNum) (func : BitVec 4) (rt : RegNum) : rtOf (rType op rd rs func rt) = rt :=
  extract_of_getLsbD _ _ _ fun i hi => by
    simp only [rType, BitVec.getLsbD_append]; split_ifs <;> first | omega | (congr 1; omega)

theorem opOf_iType (op : BitVec 4) (rd rs : RegNum) (func : BitVec 4) (imm : BitVec 16) : opOf (iType op rd rs func imm) = op :=
  extract_of_getLsbD _ _ _ fun i hi => by
    simp only [iType, BitVec.getLsbD_append]; split_ifs <;> first | omega | (congr 1; omega)
theorem rdOf_iType (op : BitVec 4) (rd rs : RegNum) (func : BitVec 4) (imm : BitVec 16) : rdOf (iType op rd rs func imm) = rd :=
  extract_of_getLsbD _ _ _ fun i hi => by
    simp only [iType, BitVec.getLsbD_append]; split_ifs <;> first | omega | (congr 1; omega)
theorem rsOf_iType (op : BitVec 4) (rd rs : RegNum) (func : BitVec 4) (imm : BitVec 16) : rsOf (iType op rd rs func imm) = rs :=
  extract_of_getLsbD _ _ _ fun i hi => by
    simp only [iType, BitVec.getLsbD_append]; split_ifs <;> first | omega | (congr 1; omega)
theorem funcOf_iType (op : BitVec 4) (rd rs : RegNum) (func : BitVec 4) (imm : BitVec 16) : funcOf (iType op rd rs func imm) = func :=
  extract_of_getLsbD _ _ _ fun i hi => by
    simp only [iType, BitVec.getLsbD_append]; split_ifs <;> first | omega | (congr 1; omega)
theorem immOf_iType (op : BitVec 4) (rd rs : RegNum) (func : BitVec 4) (imm : BitVec 16) : immOf (iType op rd rs func imm) = imm :=
  extract_of_getLsbD _ _ _ fun i hi => by
    simp only [iType, BitVec.getLsbD_append]; split_ifs <;> first | omega | (congr 1; omega)

theorem opOf_jType (op : BitVec 4) (rd rs : RegNum) (addr : Addr) : opOf (jType op rd rs addr) = op :=
  extract_of_getLsbD _ _ _ fun i hi => by
    simp only [jType, BitVec.getLsbD_append]; split_ifs <;> first | omega | (congr 1; omega)
theorem rdOf_jType (op : BitVec 4) (rd rs : RegNum) (addr : Addr) : rdOf (jType op rd rs addr) = rd :=
  extract_of_getLsbD _ _ _ fun i hi => by
    simp only [jType, BitVec.getLsbD_append]; split_ifs <;> first | omega | (congr 1; omega)
theorem rsOf_jType (op : BitVec 4) (rd rs : RegNum) (addr : Addr) : rsOf (jType op rd rs addr) = rs :=
  extract_of_getLsbD _ _ _ fun i hi => by
    simp only [jType, BitVec.getLsbD_append]; split_ifs <;> first | omega | (congr 1; omega)
theorem addrOf_jType (op : BitVec 4) (rd rs : RegNum) (addr : Addr) : addrOf (jType op rd rs addr) = addr :=
  extract_of_getLsbD _ _ _ fun i hi => by
    simp only [jType, BitVec.getLsbD_append]; split_ifs <;> first | omega | (congr 1; omega)
theorem immOf_rType (op : BitVec 4) (rd rs : RegNum) (func : BitVec 4) (rt : RegNum) : immOf (rType op rd rs func rt) = 0#12 ++ rt :=
  extract_of_getLsbD _ _ _ fun i hi => by
    simp only [rType, BitVec.getLsbD_append]; split_ifs <;> first | rfl | omega | (congr 1; omega)

/-! The format built from the fields of a word. -/

theorem iType_fields (w : Word) : iType (opOf w) (rdOf w) (rsOf w) (funcOf w) (immOf w) = w := by
  apply BitVec.eq_of_getLsbD_eq
  intro i hi
  simp only [iType, opOf, rdOf, rsOf, funcOf, immOf, BitVec.getLsbD_append, BitVec.getLsbD_extractLsb']
  split_ifs <;> (rw [decide_eq_true (by omega), Bool.true_and]; congr 1; omega)

theorem jType_fields (w : Word) : jType (opOf w) (rdOf w) (rsOf w) (addrOf w) = w := by
  apply BitVec.eq_of_getLsbD_eq
  intro i hi
  simp only [jType, opOf, rdOf, rsOf, addrOf, BitVec.getLsbD_append, BitVec.getLsbD_extractLsb']
  split_ifs <;> (rw [decide_eq_true (by omega), Bool.true_and]; congr 1; omega)

theorem rType_fields (w : Word) (h : zeroOf w = 0) :
    rType (opOf w) (rdOf w) (rsOf w) (funcOf w) (rtOf w) = w := by
  have hz : (0#12 : BitVec 12) = zeroOf w := h.symm
  apply BitVec.eq_of_getLsbD_eq
  intro i hi
  simp only [rType, hz, opOf, rdOf, rsOf, funcOf, zeroOf, rtOf, BitVec.getLsbD_append, BitVec.getLsbD_extractLsb']
  split_ifs <;> (rw [decide_eq_true (by omega), Bool.true_and]; congr 1; omega)

end Sys2Proof
end

