-- ==== Sys2Proof/Laws/Memory.lean ====
section
/-! SUPPORT. Memory: a read after a write, the canonical form, and the same of whole words (spec/20_memory.md R64, R69,
R77). -/

namespace Sys2Proof.Machine

/-! ## Cells -/

/-- A read after a write gives the written byte at its key, and what was there before at every other key. -/
theorem Memory.read_write (m : Memory) (key k : Nat) (v : Byte) :
    (m.write key v).read k = if k = key then some v else m.read k := by
  induction m with
  | nil => simp [Memory.write, Memory.read, eq_comm]
  | cons c rest ih =>
    obtain ⟨k', b⟩ := c
    unfold Memory.write
    split
    · simp [Memory.read, eq_comm]
    · split
      · next h =>
        subst h
        by_cases e : k = key
        · simp [Memory.read, e]
        · simp [Memory.read, e, Ne.symm e]
      · next h1 h2 =>
        simp only [Memory.read, ih]
        by_cases e : k' = k
        · have : k ≠ key := by omega
          simp [e, this]
        · simp [e]

/-- A memory whose keys rise from `a` rises from every smaller bound. -/
theorem Memory.risingFrom_mono {m : Memory} {a b : Nat} (hab : a ≤ b) (h : m.risingFrom b = true) :
    m.risingFrom a = true := by
  cases m with
  | nil => rfl
  | cons c rest =>
    simp only [Memory.risingFrom, Bool.and_eq_true, decide_eq_true_eq] at h ⊢
    exact ⟨by omega, h.2⟩

/-- A write at a key above the bound keeps the keys rising. -/
theorem Memory.write_risingFrom {m : Memory} {bound key : Nat} (v : Byte) (hk : bound ≤ key)
    (h : m.risingFrom bound = true) : (m.write key v).risingFrom bound = true := by
  induction m generalizing bound with
  | nil => simp [Memory.write, Memory.risingFrom, hk]
  | cons c rest ih =>
    obtain ⟨k', b⟩ := c
    simp only [Memory.risingFrom, Bool.and_eq_true, decide_eq_true_eq] at h
    unfold Memory.write
    split
    · simp only [Memory.risingFrom, Bool.and_eq_true, decide_eq_true_eq]
      exact ⟨hk, by omega, h.2⟩
    · split
      · next e => subst e; simp [Memory.risingFrom, hk, h.2]
      · simp only [Memory.risingFrom, Bool.and_eq_true, decide_eq_true_eq]
        exact ⟨h.1, ih (by omega) h.2⟩

/-- A write keeps the canonical form. -/
theorem Memory.write_wf {m : Memory} (key : Nat) (v : Byte) (h : m.wf = true) : (m.write key v).wf = true :=
  Memory.write_risingFrom v (Nat.zero_le _) h

/-- A write of a word keeps the canonical form. -/
theorem Memory.writeWord_wf {m : Memory} (a : Addr) (v : Word) (h : m.wf = true) : (m.writeWord a v).wf = true :=
  Memory.write_wf _ _ (Memory.write_wf _ _ (Memory.write_wf _ _ (Memory.write_wf _ _ h)))

/-- Dropping cells keeps the keys rising. -/
theorem Memory.filter_risingFrom {m : Memory} (p : Host.Cell → Bool) {bound : Nat} (h : m.risingFrom bound = true) :
    Memory.risingFrom bound (m.filter p) = true := by
  induction m generalizing bound with
  | nil => rfl
  | cons c rest ih =>
    obtain ⟨k, b⟩ := c
    simp only [Memory.risingFrom, Bool.and_eq_true, decide_eq_true_eq] at h
    rw [List.filter_cons]
    split
    · simp only [Memory.risingFrom, Bool.and_eq_true, decide_eq_true_eq]
      exact ⟨h.1, ih h.2⟩
    · exact Memory.risingFrom_mono (by omega) (ih h.2)

/-- RESET keeps the canonical form. -/
theorem Memory.romOnly_wf {m : Memory} (h : m.wf = true) : m.romOnly.wf = true :=
  Memory.filter_risingFrom _ h

/-- Every cell of a memory after a write is the written one or one from before. -/
theorem Memory.mem_write {m : Memory} {key : Nat} {v : Byte} {c : Host.Cell} (h : c ∈ m.write key v) :
    c = (key, v) ∨ c ∈ m := by
  induction m with
  | nil => exact .inl (by simpa [Memory.write] using h)
  | cons c' rest ih =>
    obtain ⟨k', b⟩ := c'
    unfold Memory.write at h
    split at h
    · rcases List.mem_cons.1 h with h | h
      · exact .inl h
      · exact .inr h
    · split at h
      · rcases List.mem_cons.1 h with h | h
        · exact .inl h
        · exact .inr (List.mem_cons_of_mem _ h)
      · rcases List.mem_cons.1 h with h | h
        · exact .inr (h ▸ List.mem_cons_self)
        · exact (ih h).imp id (List.mem_cons_of_mem _)

/-- Every cell of a memory after a write of a word has one of the word's four keys or is from before. -/
theorem Memory.mem_writeWord {m : Memory} {a : Addr} {v : Word} {c : Host.Cell} (h : c ∈ m.writeWord a v) :
    c.1 / 4 = a.toNat ∨ c ∈ m := by
  rcases Memory.mem_write h with h | h
  · left; simp only [h]; omega
  · rcases Memory.mem_write h with h | h
    · left; simp only [h]; omega
    · rcases Memory.mem_write h with h | h
      · left; simp only [h]; omega
      · rcases Memory.mem_write h with h | h
        · left; simp only [h]; omega
        · exact .inr h

/-! ## Bytes and words of the machine -/

/-- A byte after a write of a word: one of the word's four bytes, or the byte from before. -/
theorem State.writeWord_readByte (s : State) (a : Addr) (v : Word) (k : Nat) :
    (s.writeWord a v).readByte k =
      if k = 4 * a.toNat then v.extractLsb' 0 8
      else if k = 4 * a.toNat + 1 then v.extractLsb' 8 8
      else if k = 4 * a.toNat + 2 then v.extractLsb' 16 8
      else if k = 4 * a.toNat + 3 then v.extractLsb' 24 8
      else s.readByte k := by
  simp only [State.readByte, State.writeWord, Memory.writeWord, Memory.read_write]
  split_ifs <;> first | rfl | omega

/-- The word written to an address is the word read from it (spec/20_memory.md R64). -/
theorem State.writeWord_readWord_self (s : State) (a : Addr) (v : Word) : (s.writeWord a v).readWord a = v := by
  have hw : v.extractLsb' 24 8 ++ v.extractLsb' 16 8 ++ v.extractLsb' 8 8 ++ v.extractLsb' 0 8 = v := by
    apply BitVec.eq_of_getLsbD_eq
    intro i hi
    simp only [BitVec.getLsbD_append, BitVec.getLsbD_extractLsb']
    by_cases h0 : i < 8
    · simp [h0]
    · by_cases h1 : i - 8 < 8
      · simp [h0, h1]; congr 1; omega
      · by_cases h2 : i - 8 - 8 < 8
        · simp [h0, h1, h2]; congr 1; omega
        · have h3 : i - 8 - 8 - 8 < 8 := by omega
          simp [h0, h1, h2, h3]; congr 1; omega
  simpa [State.readWord, State.writeWord_readByte] using hw

/-- A write of one word leaves the bytes of every other word alone. -/
theorem State.writeWord_readByte_other (s : State) (a : Addr) (v : Word) {k : Nat}
    (h : k < 4 * a.toNat ∨ 4 * a.toNat + 4 ≤ k) : (s.writeWord a v).readByte k = s.readByte k := by
  rw [State.writeWord_readByte]
  split_ifs <;> first | rfl | omega

/-- A write of one word leaves every other word alone. -/
theorem State.writeWord_readWord_other (s : State) {a b : Addr} (v : Word) (h : b ≠ a) :
    (s.writeWord a v).readWord b = s.readWord b := by
  have hn : b.toNat ≠ a.toNat := fun e => h (BitVec.eq_of_toNat_eq e)
  simp only [State.readWord]
  rw [State.writeWord_readByte_other s a v (by omega), State.writeWord_readByte_other s a v (by omega),
    State.writeWord_readByte_other s a v (by omega), State.writeWord_readByte_other s a v (by omega)]

/-- Where every byte reads as before, every word does. -/
theorem SameMemory.readWord {s t : State} (h : SameMemory s t) (a : Addr) : t.readWord a = s.readWord a := by
  simp only [State.readWord, h _]

end Sys2Proof.Machine
end

