-- ==== Sys2Proof/Laws/Environment.lean ====
section
/-! SUPPORT. The device events and their delivery: what an event and a delivery leave alone, and the
prescaler's bounds
(spec/60_exceptions.md R317, R328, R335, R336, R340). -/

namespace Sys2Proof.Machine

/-- A tick leaves the prescaler and its signal alone. -/
theorem Timer.tick_prescaler (t : Timer) : t.tick.prescaler = t.prescaler ∧ t.tick.signal = t.signal := by
  simp only [Timer.tick]
  split
  · split
    · exact ⟨rfl, rfl⟩
    · exact ⟨rfl, rfl⟩
  · exact ⟨rfl, rfl⟩

/-- The prescaler's start is within its bounds. -/
theorem prescalerStart_bounds :
    1 ≤ prescalerStart.toNat ∧ prescalerStart.toNat ≤ 1302 := by decide

/-- A clock cycle keeps the prescaler between 1 and 1302. -/
theorem Timer.cycle_prescaler {t : Timer} (h : 1 ≤ t.prescaler.toNat ∧ t.prescaler.toNat ≤ 1302) :
    1 ≤ t.cycle.prescaler.toNat ∧ t.cycle.prescaler.toNat ≤ 1302 := by
  simp only [Timer.cycle]
  split
  · split
    · rw [(Timer.tick_prescaler _).1]; exact prescalerStart_bounds
    · exact prescalerStart_bounds
  · next hp =>
    have : (t.prescaler - 1).toNat = t.prescaler.toNat - 1 := by
      have := t.prescaler.isLt
      simp [BitVec.toNat_sub]; omega
    simp only [this]; omega

/-- Any number of clock cycles keeps the prescaler between 1 and 1302. -/
theorem Timer.cycles_prescaler (n : Nat) {t : Timer} (h : 1 ≤ t.prescaler.toNat ∧ t.prescaler.toNat ≤ 1302) :
    1 ≤ (Timer.cycles n t).prescaler.toNat ∧ (Timer.cycles n t).prescaler.toNat ≤ 1302 := by
  induction n generalizing t with
  | zero => exact h
  | succ n ih => exact ih (Timer.cycle_prescaler h)

/-- What an event other than RESET leaves alone: everything but the devices. -/
structure Undisturbed (s t : State) : Prop where
  params : t.params = s.params
  regs : t.regs = s.regs
  pc : t.pc = s.pc
  cctrl : t.cctrl = s.cctrl
  estat : t.estat = s.estat
  icount : t.icount = s.icount
  ccount : t.ccount = s.ccount
  evec : t.evec = s.evec
  ear : t.ear = s.ear
  ers : t.ers = s.ers
  ptable : t.ptable = s.ptable
  rbase : t.rbase = s.rbase
  mem : t.mem = s.mem
  ramEpoch : t.ramEpoch = s.ramEpoch
  draws : t.draws = s.draws

/-- An event other than RESET leaves all but the devices alone. -/
theorem State.apply_undisturbed (s : State) {e : DeviceEvent} (h : e ≠ .resetButton) : Undisturbed s (s.apply e) := by
  cases e with
  | resetButton => exact absurd rfl h
  | serialReceive p c => cases p <;> exact ⟨rfl, rfl, rfl, rfl, rfl, rfl, rfl, rfl, rfl, rfl, rfl, rfl, rfl, rfl, rfl⟩
  | serialSent p => cases p <;> exact ⟨rfl, rfl, rfl, rfl, rfl, rfl, rfl, rfl, rfl, rfl, rfl, rfl, rfl, rfl, rfl⟩
  | serialErrors p e => cases p <;> exact ⟨rfl, rfl, rfl, rfl, rfl, rfl, rfl, rfl, rfl, rfl, rfl, rfl, rfl, rfl, rfl⟩
  | switches v => exact ⟨rfl, rfl, rfl, rfl, rfl, rfl, rfl, rfl, rfl, rfl, rfl, rfl, rfl, rfl, rfl⟩
  | buttons v => exact ⟨rfl, rfl, rfl, rfl, rfl, rfl, rfl, rfl, rfl, rfl, rfl, rfl, rfl, rfl, rfl⟩
  | clock n => exact ⟨rfl, rfl, rfl, rfl, rfl, rfl, rfl, rfl, rfl, rfl, rfl, rfl, rfl, rfl, rfl⟩
  | userButton => exact ⟨rfl, rfl, rfl, rfl, rfl, rfl, rfl, rfl, rfl, rfl, rfl, rfl, rfl, rfl, rfl⟩

/-- No event changes the parameters. -/
@[simp] theorem State.apply_params (s : State) (e : DeviceEvent) : (s.apply e).params = s.params := by
  cases e with
  | serialReceive p c => cases p <;> rfl
  | serialSent p => cases p <;> rfl
  | serialErrors p e => cases p <;> rfl
  | _ => rfl

/-- No event changes the rest of the script. -/
@[simp] theorem State.apply_script (s : State) (e : DeviceEvent) : (s.apply e).script = s.script := by
  cases e with
  | serialReceive p c => cases p <;> rfl
  | serialSent p => cases p <;> rfl
  | serialErrors p e => cases p <;> rfl
  | _ => rfl

/-- Only the clock moves the prescaler, but for RESET. -/
theorem State.apply_prescaler {s : State} (e : DeviceEvent)
    (h : 1 ≤ s.timer.prescaler.toNat ∧ s.timer.prescaler.toNat ≤ 1302) :
    1 ≤ (s.apply e).timer.prescaler.toNat ∧ (s.apply e).timer.prescaler.toNat ≤ 1302 := by
  cases e with
  | clock n => exact Timer.cycles_prescaler n h
  | resetButton => exact prescalerStart_bounds
  | serialReceive p c => cases p <;> exact h
  | serialSent p => cases p <;> exact h
  | serialErrors p e => cases p <;> exact h
  | switches v => exact h
  | buttons v => exact h
  | userButton => exact h

/-- What a relation says of a state and the one after an event of a list, it says of the state after them all. -/
theorem State.foldl_apply {P : State → State → Prop} (refl : ∀ s, P s s) (trans : ∀ s t u, P s t → P t u → P s u)
    {events : List DeviceEvent} (h : ∀ e ∈ events, ∀ s, P s (s.apply e)) (s : State) : P s (events.foldl State.apply s) := by
  induction events generalizing s with
  | nil => exact refl s
  | cons e rest ih =>
    exact trans _ _ _ (h e List.mem_cons_self s) (ih (fun x hx => h x (List.mem_cons_of_mem e hx)) (s.apply e))

/-- What holds of a state and is kept by every event, and does not speak of the script, holds at the boundary of the step. -/
theorem State.deliver_induction {P : State → Prop} (hs : ∀ s rest, P s → P { s with script := rest })
    (he : ∀ s e, P s → P (s.apply e)) {s : State} (h : P s) : P s.deliver :=
  State.foldl_apply (P := fun u v => P u → P v) (fun _ hu => hu) (fun _ _ _ f g hu => g (f hu)) (fun e _ u => he u e) _
    (hs s _ h)

/-- No delivery changes the parameters. -/
@[simp] theorem State.deliver_params (s : State) : s.deliver.params = s.params :=
  State.deliver_induction (P := fun u => u.params = s.params) (fun _ _ h => h) (fun u e h => (u.apply_params e).trans h) rfl

/-- A delivery takes the head of the script. -/
@[simp] theorem State.deliver_script (s : State) : s.deliver.script = s.script.tail :=
  State.foldl_apply (P := fun u v => v.script = u.script) (fun _ => rfl) (fun _ _ _ f g => g.trans f)
    (fun e _ u => u.apply_script e) { s with script := s.script.tail }

/-- Where RESET is not pressed, a delivery leaves all but the devices alone. -/
theorem State.deliver_undisturbed {s : State} (h : .resetButton ∉ s.boundaryEvents) : Undisturbed s s.deliver := by
  have := State.foldl_apply (P := Undisturbed) (fun _ => ⟨rfl, rfl, rfl, rfl, rfl, rfl, rfl, rfl, rfl, rfl, rfl, rfl, rfl,
      rfl, rfl⟩)
    (fun _ _ _ f g => ⟨g.1.trans f.1, g.2.trans f.2, g.3.trans f.3, g.4.trans f.4, g.5.trans f.5, g.6.trans f.6,
      g.7.trans f.7, g.8.trans f.8, g.9.trans f.9, g.10.trans f.10, g.11.trans f.11, g.12.trans f.12, g.13.trans f.13,
      g.14.trans f.14, g.15.trans f.15⟩)
    (fun e he u => u.apply_undisturbed (ne_of_mem_of_not_mem he h)) { s with script := s.script.tail }
  exact ⟨this.1, this.2, this.3, this.4, this.5, this.6, this.7, this.8, this.9, this.10, this.11, this.12, this.13,
    this.14, this.15⟩

end Sys2Proof.Machine
end

