-- ==== Sys2Proof/Laws/Exceptions.lean ====
section
/-! SUPPORT. Taking an exception and returning from one: what the shared operations of Machine/Ops.lean do to each field
(spec/60_exceptions.md R275 to R280). -/

namespace Sys2Proof.Machine

/-! ## The flags of `$cctrl` -/

/-- The four flags stand at four positions. -/
theorem CctrlLayout.positions (l : CctrlLayout) :
    (l.oie : Nat) ≠ l.ie ∧ (l.oie : Nat) ≠ l.oku ∧ (l.oie : Nat) ≠ l.ku ∧ (l.ie : Nat) ≠ l.oku ∧ (l.ie : Nat) ≠ l.ku ∧
      (l.oku : Nat) ≠ l.ku := by
  simpa [Fin.ext_iff, and_assoc] using l.distinct

/-- A flag of `$cctrl` after one is written. -/
theorem setFlag_cctrl (c : BitVec 12) (i : Fin 4) (j : Nat) (b : Bool) :
    (setFlag c i b).getLsbD j = if j = i then b else c.getLsbD j :=
  setFlag_getLsbD c i j b (by omega)

/-- Each bit of `$cctrl` after an entry. -/
theorem CctrlLayout.enter_getLsbD (l : CctrlLayout) (c : BitVec 12) (j : Nat) :
    (l.enter c).getLsbD j =
      if j = l.ku then true else if j = l.oku then c.getLsbD l.ku else if j = l.ie then false
      else if j = l.oie then c.getLsbD l.ie else c.getLsbD j := by
  obtain ⟨h1, h2, h3, h4, h5, h6⟩ := l.positions
  simp only [CctrlLayout.enter, setFlag_cctrl, if_neg h3.symm, if_neg h5.symm]

/-- Each bit of `$cctrl` after a return. -/
theorem CctrlLayout.leave_getLsbD (l : CctrlLayout) (c : BitVec 12) (j : Nat) :
    (l.leave c).getLsbD j =
      if j = l.ku then c.getLsbD l.oku else if j = l.ie then c.getLsbD l.oie else c.getLsbD j := by
  obtain ⟨h1, h2, h3, h4, h5, h6⟩ := l.positions
  simp only [CctrlLayout.leave, setFlag_cctrl, if_neg h4.symm]

/-- The mask is bits 11:4, which neither touches. -/
theorem mask_eq_of_getLsbD {c d : BitVec 12} (h : ∀ j, 4 ≤ j → c.getLsbD j = d.getLsbD j) :
    c.extractLsb' 4 8 = d.extractLsb' 4 8 := by
  apply BitVec.eq_of_getLsbD_eq
  intro i _
  simp [h (4 + i) (by omega)]

/-! ## The cause word -/

/-- Each of bits 15:12 of the cause word. -/
theorem causeBits_getLsbD (c : Option InternalCause) (k : InternalCause) :
    (causeBits c).getLsbD (k.bit - 12) = decide (c = some k) := by
  cases c with
  | none => cases k <;> decide
  | some j => cases j <;> cases k <;> decide

/-- Each of the IRQ bits of the cause word. -/
theorem State.irqBits_getLsbD (s : State) (i : Nat) (hi : i < 8) :
    (s.lines.getLsbD i = false → s.irqBits.getLsbD i = false) ∧
    (s.lines.getLsbD i = true → s.enabledLines.getLsbD i = true → s.irqBits.getLsbD i = true) := by
  simp only [State.irqBits]
  split <;> constructor <;> intros <;> simp_all

/-- Which lines are enabled. -/
theorem State.enabledLines_getLsbD (s : State) (i : Nat) (hi : i < 8) :
    s.enabledLines.getLsbD i = s.lineEnabled i := by
  unfold State.enabledLines State.lineEnabled State.mask
  split <;> simp_all

theorem State.causeWord_getLsbD (s : State) (c : Option InternalCause) (j : Nat) :
    (s.causeWord c).getLsbD j =
      if j < 4 then false else if j < 12 then s.irqBits.getLsbD (j - 4)
      else if j < 16 then (causeBits c).getLsbD (j - 12) else false := by
  have e : j - 4 - 8 = j - 12 := by omega
  simp only [State.causeWord, BitVec.getLsbD_append, e]
  split_ifs <;> first | omega | simp

/-- The word an entry writes to `$estat` is a cause word. -/
theorem State.causeWord_spec (s : State) (c : Option InternalCause) : CauseWord c s (s.causeWord c) where
  low := by
    apply BitVec.eq_of_getLsbD_eq
    intro i hi
    simp [s.causeWord_getLsbD, hi]
  high := by
    apply BitVec.eq_of_getLsbD_eq
    intro i hi
    have h1 : ¬16 + i < 4 := by omega
    have h2 : ¬16 + i < 12 := by omega
    simp [s.causeWord_getLsbD, h1, h2]
  internal k := by
    rw [s.causeWord_getLsbD, ← causeBits_getLsbD]
    cases k <;> rfl
  idle i hi h := by
    rw [s.causeWord_getLsbD, if_neg (by omega), if_pos (by omega), Nat.add_sub_cancel_left]
    exact (s.irqBits_getLsbD i hi).1 h
  taken i hi h he := by
    rw [s.causeWord_getLsbD, if_neg (by omega), if_pos (by omega), Nat.add_sub_cancel_left]
    exact (s.irqBits_getLsbD i hi).2 h (s.enabledLines_getLsbD i hi ▸ he)

/-! ## Entry and return -/

/-- The flags of `$cctrl` after an entry. -/
theorem State.enter_flags (s : State) (c : Option InternalCause) (ra : Addr) :
    (s.enter c ra).oie = s.ie ∧ (s.enter c ra).ie = false ∧ (s.enter c ra).oku = s.ku ∧ (s.enter c ra).ku = true ∧
      (s.enter c ra).mask = s.mask := by
  obtain ⟨h1, h2, h3, h4, h5, h6⟩ := s.params.cctrl.positions
  have e := s.params.cctrl.enter_getLsbD s.cctrl
  refine ⟨?_, ?_, ?_, ?_, mask_eq_of_getLsbD fun j hj => ?_⟩
  · exact (e s.params.cctrl.oie).trans (by rw [if_neg h3, if_neg h2, if_neg h1, if_pos rfl, State.ie])
  · exact (e s.params.cctrl.ie).trans (by rw [if_neg h5, if_neg h4, if_pos rfl])
  · exact (e s.params.cctrl.oku).trans (by rw [if_neg h6, if_pos rfl, State.ku])
  · exact (e s.params.cctrl.ku).trans (if_pos rfl)
  · rw [State.enter_cctrl, e, if_neg (by omega), if_neg (by omega), if_neg (by omega), if_neg (by omega)]

/-- The entry procedure does what R275 says and nothing else. -/
theorem State.enter_takes (s : State) (c : Option InternalCause) (ra : Addr) : Takes c ra s (s.enter c ra) :=
  have hf := s.enter_flags c ra
  ⟨{ params := rfl
     oie := hf.1
     ie := hf.2.1
     oku := hf.2.2.1
     ku := hf.2.2.2.1
     mask := hf.2.2.2.2
     estat := s.causeWord_spec c
     ers := rfl
     ear := rfl
     pc := rfl
     evec := rfl
     icount := rfl
     ccount := rfl
     ptable := rfl
     rbase := rfl
     memory := fun _ => rfl
     devices := ⟨rfl, rfl, rfl, rfl, rfl, rfl⟩ },
    fun _ => rfl⟩

/-- An exception with the destination open. -/
theorem State.scramble_raised_takes (s : State) (rd : RegNum) (c : InternalCause) :
    TakesSparing rd c (s.pc + 1) s ((s.scramble rd).raised c) := by
  have hp : (s.scramble rd).pc = s.pc := by simp [State.scramble]
  obtain ⟨h, hr⟩ := (s.scramble rd).enter_takes (some c) (s.pc + 1)
  have hc : (s.scramble rd).cctrl = s.cctrl := by simp [State.scramble]
  have hq : (s.scramble rd).params = s.params := by simp [State.scramble]
  have hl : (s.scramble rd).lines = s.lines := by simp [State.scramble, State.lines]
  unfold State.raised
  rw [hp]
  refine ⟨{
     params := h.params.trans hq
     oie := h.oie.trans (by rw [State.ie, hc, hq, State.ie])
     ie := h.ie
     oku := h.oku.trans (by rw [State.ku, hc, hq, State.ku])
     ku := h.ku
     mask := h.mask.trans (by rw [State.mask, hc, State.mask])
     estat := ?_
     ers := h.ers
     ear := h.ear
     pc := h.pc.trans (by simp [State.scramble])
     evec := h.evec.trans (by simp [State.scramble])
     icount := h.icount.trans (by simp [State.scramble])
     ccount := h.ccount.trans (by simp [State.scramble])
     ptable := h.ptable.trans (by simp [State.scramble])
     rbase := h.rbase.trans (by simp [State.scramble])
     memory := fun k => (h.memory k).trans (by simp [State.scramble])
     devices := ?_ }, fun q hq => (hr q).trans (by simp [State.scramble, State.setReg_reg_other _ _ hq])⟩
  · exact { low := h.estat.low, high := h.estat.high, internal := h.estat.internal
            idle := fun i hi hz => h.estat.idle i hi (hl.symm ▸ hz)
            taken := fun i hi hz he =>
              h.estat.taken i hi (hl.symm ▸ hz) (by rw [State.lineEnabled, State.ie, hc, hq]; exact he) }
  · have hd := h.devices
    exact ⟨hd.serial1.trans (by simp [State.scramble]), hd.serial2.trans (by simp [State.scramble]),
      hd.parallel.trans (by simp [State.scramble]), hd.timer.trans (by simp [State.scramble]),
      hd.userPending.trans (by simp [State.scramble]), hd.script.trans (by simp [State.scramble])⟩

/-- The flags of `$cctrl` after a return. -/
theorem State.returned_flags (s : State) :
    s.returned.oie = s.oie ∧ s.returned.ie = s.oie ∧ s.returned.oku = s.oku ∧ s.returned.ku = s.oku ∧
      s.returned.mask = s.mask := by
  have hc : s.returned.cctrl = s.params.cctrl.leave s.cctrl := by simp [State.returned]
  have hq : s.returned.params = s.params := by simp [State.returned]
  obtain ⟨h1, h2, h3, h4, h5, h6⟩ := s.params.cctrl.positions
  have e := s.params.cctrl.leave_getLsbD s.cctrl
  refine ⟨?_, ?_, ?_, ?_, mask_eq_of_getLsbD fun j hj => ?_⟩
  · rw [State.oie, hc, hq, e, if_neg h3, if_neg h1, State.oie]
  · rw [State.ie, hc, hq, e, if_neg h5, if_pos rfl, State.oie]
  · rw [State.oku, hc, hq, e, if_neg h6, if_neg h4.symm, State.oku]
  · rw [State.ku, hc, hq, e, if_pos rfl, State.oku]
  · rw [hc, e, if_neg (by omega), if_neg (by omega)]

end Sys2Proof.Machine
end

