-- ==== Sys2Proof/Laws/Exec.lean ====
section
/-! SUPPORT. Everything an instruction can do when it ends in a next state, said once: a case for each shape of effect, so
that a statement about all instructions is proved over these cases and not over the 71 meanings. -/

namespace Sys2Proof.Machine

/-- The shapes of effect that end in a next state. -/
inductive Effect (i : Instr) (s : State) : State → Prop where
  /-- A result goes to a register. -/
  | result (rd : RegNum) (v : Word) : Effect i s (s.setReg rd v).advance
  /-- The Arithmetic Exception. -/
  | arithmetic (rd : RegNum) (h : raisesArithmetic i = true) : Effect i s ((s.scramble rd).raised .arithmetic)
  /-- A jump, a taken branch, or a branch not taken. -/
  | jump (a : Addr) : Effect i s (s.jump a)
  /-- A jump that links. -/
  | link (a : Addr) : Effect i s ((s.setReg 15 (linkValue s.pc)).jump a)
  /-- A load whose access was made. -/
  | load (rd rs : RegNum) (offset : BitVec 20) (v : Word) (u : State) (hi : i = .lw rd rs offset)
      (h : s.memRead (effectiveAddress (s.reg rs) offset) = .done v u) : Effect i s (u.setReg rd v).advance
  /-- A load that the protection table forbids. -/
  | loadForbidden (rd rs : RegNum) (offset : BitVec 20) (hi : i = .lw rd rs offset) (hk : s.ku = false) :
      Effect i s ((s.scramble rd).raised .generalProtection)
  /-- A store whose access was made. -/
  | store (rd rs : RegNum) (offset : BitVec 20) (u : State) (hi : i = .sw rd rs offset)
      (h : s.memWrite (effectiveAddress (s.reg rs) offset) (s.reg rd) = .done () u) : Effect i s u.advance
  /-- A store that the protection table forbids. -/
  | storeForbidden (rd rs : RegNum) (offset : BitVec 20) (hi : i = .sw rd rs offset) (hk : s.ku = false) :
      Effect i s (s.raised .generalProtection)
  /-- `movgs` in kernel mode. -/
  | writeSpecial (sd rs : RegNum) (r : Spr) (u : State) (hi : i = .movgs sd rs) (hk : s.ku = true)
      (hr : s.params.spr.named sd = some r) (h : s.writeSpr r (s.reg rs) = .ok u) : Effect i s u.advance
  /-- `movsg` in kernel mode. -/
  | readSpecial (rd ss : RegNum) (r : Spr) (hi : i = .movsg rd ss) (hk : s.ku = true)
      (hr : s.params.spr.named ss = some r) : Effect i s ((s.readSpr r).2.setReg rd (s.readSpr r).1).advance
  /-- A privileged instruction in user mode. -/
  | unprivileged (hi : i = .rfe ∨ (∃ a b, i = .movgs a b) ∨ ∃ a b, i = .movsg a b) (hk : s.ku = false) :
      Effect i s (s.raised .generalProtection)
  /-- `break`. -/
  | breakpoint (hi : i = .brk) : Effect i s (s.raised .breakpoint)
  /-- `syscall`. -/
  | syscall (hi : i = .syscall) : Effect i s (s.raised .syscall)
  /-- `rfe` in kernel mode. -/
  | returned (hi : i = .rfe) (hk : s.ku = true) : Effect i s s.returned

/-- The end of an arithmetic instruction. -/
theorem arithmetic_effect {i : Instr} {s t : State} {rd : RegNum} {r : Option Word} (hi : raisesArithmetic i = true)
    (h : arithmetic rd r s = .next t) : Effect i s t := by
  cases r with
  | none => injection h with h; exact h ▸ .arithmetic rd hi
  | some v => injection h with h; exact h ▸ .result rd v

/-- The end of an instruction with a result. -/
theorem retire_effect {i : Instr} {s t : State} {rd : RegNum} {v : Word} (h : s.retire rd v = .next t) :
    Effect i s t := by
  injection h with h; exact h ▸ .result rd v

/-- A conditional branch. -/
theorem branchIf_effect {i : Instr} {s t : State} {c : Bool} {offset : BitVec 20}
    (h : branchIf c offset s = .next t) : Effect i s t := by
  injection h with h
  subst h
  split
  · exact .jump _
  · exact .jump (s.pc + 1)

/-- The two ways an access is forbidden need user mode. -/
theorem State.checked_protectionFault {α : Type} {s : State} {a : Addr} {go : Access α}
    (hgo : go ≠ .protectionFault) (h : s.checked a go = .protectionFault) : s.ku = false := by
  cases hk : s.ku with
  | false => rfl
  | true => rw [State.checked_open s a go (.inl hk)] at h; exact absurd h hgo

/-- A read of the bus is never forbidden: the check comes before it. -/
theorem State.busRead_ne_fault (s : State) (a : Addr) : s.busRead a ≠ .protectionFault := by
  unfold State.busRead
  split <;> (try split) <;> exact fun h => nomatch h

/-- A write of the bus is never forbidden. -/
theorem State.busWrite_ne_fault (s : State) (a : Addr) (v : Word) : s.busWrite a v ≠ .protectionFault := by
  unfold State.busWrite
  split <;> (try split) <;> exact fun h => nomatch h

theorem execLw_effect {s t : State} {rd rs : RegNum} {offset : BitVec 20} (h : execLw rd rs offset s = .next t) :
    Effect (.lw rd rs offset) s t := by
  unfold execLw at h
  split at h
  · next v u hu => injection h with h; exact h ▸ .load rd rs offset v u rfl hu
  · next hf =>
    injection h with h
    exact h ▸ .loadForbidden rd rs offset rfl (State.checked_protectionFault (s.busRead_ne_fault _) hf)
  · cases h
  · cases h

theorem execSw_effect {s t : State} {rd rs : RegNum} {offset : BitVec 20} (h : execSw rd rs offset s = .next t) :
    Effect (.sw rd rs offset) s t := by
  unfold execSw at h
  split at h
  · next u hu => injection h with h; exact h ▸ .store rd rs offset u rfl hu
  · next hf =>
    injection h with h
    exact h ▸ .storeForbidden rd rs offset rfl (State.checked_protectionFault (s.busWrite_ne_fault _ _) hf)
  · cases h
  · cases h

theorem execMovgs_effect {s t : State} {sd rs : RegNum} (h : execMovgs sd rs s = .next t) :
    Effect (.movgs sd rs) s t := by
  unfold execMovgs State.privileged at h
  split at h
  · next hk =>
    dsimp only at h
    split at h
    · cases h
    · next r hr =>
      split at h
      · next u hu => injection h with h; exact h ▸ .writeSpecial sd rs r u rfl hk hr hu
      · cases h
  · next hk => injection h with h; exact h ▸ .unprivileged (.inr (.inl ⟨_, _, rfl⟩)) (by simpa using hk)

theorem execMovsg_effect {s t : State} {rd ss : RegNum} (h : execMovsg rd ss s = .next t) :
    Effect (.movsg rd ss) s t := by
  unfold execMovsg State.privileged at h
  split at h
  · next hk =>
    dsimp only at h
    split at h
    · cases h
    · next r hr => injection h with h; exact h ▸ .readSpecial rd ss r rfl hk hr
  · next hk => injection h with h; exact h ▸ .unprivileged (.inr (.inr ⟨_, _, rfl⟩)) (by simpa using hk)

theorem execRfe_effect {s t : State} (h : execRfe s = .next t) : Effect .rfe s t := by
  unfold execRfe State.privileged at h
  split at h
  · next hk => injection h with h; exact h ▸ .returned rfl hk
  · next hk => injection h with h; exact h ▸ .unprivileged (.inl rfl) (by simpa using hk)

/-- Every instruction that ends in a next state has one of the effects. -/
theorem exec_effect {i : Instr} {s t : State} (h : exec i s = .next t) : Effect i s t := by
  cases i with
  | lw rd rs offset => exact execLw_effect h
  | sw rd rs offset => exact execSw_effect h
  | movgs sd rs => exact execMovgs_effect h
  | movsg rd ss => exact execMovsg_effect h
  | rfe => exact execRfe_effect h
  | brk => injection h with h; exact h ▸ .breakpoint rfl
  | syscall => injection h with h; exact h ▸ .syscall rfl
  | j a => injection h with h; exact h ▸ .jump a
  | jr rs => injection h with h; exact h ▸ .jump _
  | jal a => injection h with h; exact h ▸ .link a
  | jalr rs =>
    have h : execJalr rs s = .next t := h
    unfold execJalr at h
    split at h
    · cases h
    · injection h with h; exact h ▸ .link _
  | beqz rs offset => exact branchIf_effect h
  | bnez rs offset => exact branchIf_effect h
  | _ => first | exact retire_effect h | exact arithmetic_effect rfl h

end Sys2Proof.Machine
end

