-- ==== Sys2Proof/Laws/LoadStore.lean ====
section
/-! SUPPORT. `lw` and `sw` by what the bus answers at the accessed address, where the protection check lets the access
through, and where it forbids it (spec/44_loadstore.md R231, R232, R234). -/

namespace Sys2Proof.Machine

/-- `lw` of an address whose access is made. -/
theorem execLw_done {s u : State} {rd rs : RegNum} {offset : BitVec 20} {v : Word}
    (h : s.mayAccess (s.accessed rs offset)) (hb : s.busRead (s.accessed rs offset) = .done v u) :
    execLw rd rs offset s = u.retire rd v := by
  have hc := (s.checked_open _ (s.busRead (s.accessed rs offset)) h).trans hb
  unfold execLw State.memRead
  unfold State.accessed at hc
  rw [hc]

/-- `lw` of an address where nothing is. -/
theorem execLw_fault {s : State} {rd rs : RegNum} {offset : BitVec 20} {f : Fault}
    (h : s.mayAccess (s.accessed rs offset)) (hb : s.busRead (s.accessed rs offset) = .fault f) :
    execLw rd rs offset s = .fault f := by
  have hc := (s.checked_open _ (s.busRead (s.accessed rs offset)) h).trans hb
  unfold execLw State.memRead
  unfold State.accessed at hc
  rw [hc]

/-- `lw` of an address where a load has no meaning. -/
theorem execLw_refused {s : State} {rd rs : RegNum} {offset : BitVec 20} {r : Refusal}
    (h : s.mayAccess (s.accessed rs offset)) (hb : s.busRead (s.accessed rs offset) = .refused r) :
    execLw rd rs offset s = .refused r := by
  have hc := (s.checked_open _ (s.busRead (s.accessed rs offset)) h).trans hb
  unfold execLw State.memRead
  unfold State.accessed at hc
  rw [hc]

/-- `lw` of an address that the table forbids. -/
theorem execLw_forbidden {s : State} {rd rs : RegNum} {offset : BitVec 20} (hk : s.ku = false)
    (ht : s.tableInMemory = true) (ha : s.allowed (s.accessed rs offset) = false) :
    execLw rd rs offset s = .next ((s.scramble rd).raised .generalProtection) := by
  have hc := s.checked_forbidden _ (s.busRead (s.accessed rs offset)) hk ht ha
  unfold execLw State.memRead
  unfold State.accessed at hc
  rw [hc]

/-- `sw` to an address whose access is made. -/
theorem execSw_done {s u : State} {rd rs : RegNum} {offset : BitVec 20}
    (h : s.mayAccess (s.accessed rs offset)) (hb : s.busWrite (s.accessed rs offset) (s.reg rd) = .done () u) :
    execSw rd rs offset s = .next u.advance := by
  have hc := (s.checked_open _ (s.busWrite (s.accessed rs offset) (s.reg rd)) h).trans hb
  unfold execSw State.memWrite
  unfold State.accessed at hc
  rw [hc]

/-- `sw` to an address where nothing is. -/
theorem execSw_fault {s : State} {rd rs : RegNum} {offset : BitVec 20} {f : Fault}
    (h : s.mayAccess (s.accessed rs offset)) (hb : s.busWrite (s.accessed rs offset) (s.reg rd) = .fault f) :
    execSw rd rs offset s = .fault f := by
  have hc := (s.checked_open _ (s.busWrite (s.accessed rs offset) (s.reg rd)) h).trans hb
  unfold execSw State.memWrite
  unfold State.accessed at hc
  rw [hc]

/-- `sw` to an address where a store has no meaning. -/
theorem execSw_refused {s : State} {rd rs : RegNum} {offset : BitVec 20} {r : Refusal}
    (h : s.mayAccess (s.accessed rs offset)) (hb : s.busWrite (s.accessed rs offset) (s.reg rd) = .refused r) :
    execSw rd rs offset s = .refused r := by
  have hc := (s.checked_open _ (s.busWrite (s.accessed rs offset) (s.reg rd)) h).trans hb
  unfold execSw State.memWrite
  unfold State.accessed at hc
  rw [hc]

/-- `sw` to an address that the table forbids. -/
theorem execSw_forbidden {s : State} {rd rs : RegNum} {offset : BitVec 20} (hk : s.ku = false)
    (ht : s.tableInMemory = true) (ha : s.allowed (s.accessed rs offset) = false) :
    execSw rd rs offset s = .next (s.raised .generalProtection) := by
  have hc := s.checked_forbidden _ (s.busWrite (s.accessed rs offset) (s.reg rd)) hk ht ha
  unfold execSw State.memWrite
  unfold State.accessed at hc
  rw [hc]

end Sys2Proof.Machine
end

