-- ==== Sys2Proof/Laws/Special.lean ====
section
/-! SUPPORT. Reads and writes of the special registers: everything each can do (spec/45_special.md R241, R242). -/

namespace Sys2Proof.Machine

/-- Everything a write of a special register can do. -/
theorem State.writeSpr_ok {s u : State} {r : Spr} {v : Word} (h : s.writeSpr r v = .ok u) :
    (r = .cctrl ∧ u = { s with cctrl := v.setWidth 12 }) ∨ (r = .evec ∧ u = { s with evec := v }) ∨
    (r = .ear ∧ u = { s with ear := v }) ∨ (r = .ers ∧ u = { s with ers := v }) ∨
    (r = .ptable ∧ u = { s with ptable := v }) ∨ (r = .rbase ∧ v = 0 ∧ u = { s with rbase := 0 }) := by
  cases r with
  | cctrl => injection h with h; exact .inl ⟨rfl, h.symm⟩
  | evec => injection h with h; exact .inr (.inl ⟨rfl, h.symm⟩)
  | ear => injection h with h; exact .inr (.inr (.inl ⟨rfl, h.symm⟩))
  | ers => injection h with h; exact .inr (.inr (.inr (.inl ⟨rfl, h.symm⟩)))
  | ptable => injection h with h; exact .inr (.inr (.inr (.inr (.inl ⟨rfl, h.symm⟩))))
  | rbase =>
    unfold State.writeSpr at h
    dsimp only at h
    split at h
    · next hv => injection h with h; exact .inr (.inr (.inr (.inr (.inr ⟨rfl, hv, h.symm⟩))))
    · exact nomatch h
  | estat => exact nomatch h
  | icount => exact nomatch h
  | ccount => exact nomatch h

/-- What a read of a special register can change: the two counters, and the free values drawn. -/
theorem State.readSpr_frame (s : State) (r : Spr) :
    ∃ i c d, (s.readSpr r).2 = { s with icount := i, ccount := c, draws := d } := by
  cases r with
  | icount => exact ⟨s.icount + s.free, s.ccount, s.draws + 1, rfl⟩
  | ccount => exact ⟨s.icount, s.ccount + s.free, s.draws + 1, rfl⟩
  | cctrl => exact ⟨s.icount, s.ccount, s.draws + 1, rfl⟩
  | estat => exact ⟨s.icount, s.ccount, s.draws, rfl⟩
  | evec => exact ⟨s.icount, s.ccount, s.draws, rfl⟩
  | ear => exact ⟨s.icount, s.ccount, s.draws, rfl⟩
  | ers => exact ⟨s.icount, s.ccount, s.draws, rfl⟩
  | ptable => exact ⟨s.icount, s.ccount, s.draws, rfl⟩
  | rbase => exact ⟨s.icount, s.ccount, s.draws, rfl⟩

/-- A number names the register whose number it is, and no other. -/
theorem SprNumbers.named_eq_some (p : SprNumbers) (n : RegNum) (r : Spr) : p.named n = some r ↔ n = p.number r := by
  have h := p.distinct
  simp only [List.nodup_cons, List.mem_cons, List.not_mem_nil, or_false, not_or] at h
  unfold SprNumbers.named
  constructor
  · intro hr
    split_ifs at hr <;> cases hr <;> assumption
  · rintro rfl
    cases r <;> simp only [SprNumbers.number] <;> simp_all [eq_comm]

/-- A number names no register where it is the number of none. -/
theorem SprNumbers.named_eq_none (p : SprNumbers) (n : RegNum) : p.named n = none ↔ ∀ r : Spr, n ≠ p.number r := by
  rw [Option.eq_none_iff_forall_ne_some]
  exact forall_congr' fun r => not_congr (p.named_eq_some n r)

/-- Each special register has a number that names it. -/
@[simp] theorem SprNumbers.named_number (p : SprNumbers) (r : Spr) : p.named (p.number r) = some r :=
  (p.named_eq_some _ r).2 rfl

end Sys2Proof.Machine
end

