-- ==== Sys2Proof/Tests/Slice0.lean ====
section
/-! SUPPORT. Tests of the model against spec/95_test_vectors.md and the encodings of spec/opcode_table.json, and for each
statement with hypotheses a state that meets them. -/

namespace Sys2Proof.Tests

open Sys2Proof.Machine

/-! ## Well-formedness: one ill-formed term for each check -/

theorem test_wf_movgs_refused : Instr.wellFormed Params.default.spr (.movgs 10 1) = false := by decide
theorem test_wf_movsg_refused : Instr.wellFormed Params.default.spr (.movsg 1 0) = false := by decide
theorem test_wf_jalr_refused : Instr.wellFormed Params.default.spr (.jalr 15) = false := by decide
theorem test_wf_accepted :
    Instr.wellFormed Params.default.spr (.movgs 8 1) = true ∧ Instr.wellFormed Params.default.spr (.jalr 5) = true := by
  decide

/-! ## Decoding: a word for each instruction, written from its encoding line -/

theorem test_decode_arithmetic_register :
    decode 0b0000_0011_0001_0000_0000_0000_0000_0010 = .instr (.add 3 1 2) ∧
    decode 0b0000_0011_0001_0001_0000_0000_0000_0010 = .instr (.addu 3 1 2) ∧
    decode 0b0000_0011_0001_0010_0000_0000_0000_0010 = .instr (.sub 3 1 2) ∧
    decode 0b0000_0011_0001_0011_0000_0000_0000_0010 = .instr (.subu 3 1 2) ∧
    decode 0b0000_0011_0001_0100_0000_0000_0000_0010 = .instr (.mult 3 1 2) ∧
    decode 0b0000_0011_0001_0101_0000_0000_0000_0010 = .instr (.multu 3 1 2) ∧
    decode 0b0000_0011_0001_0110_0000_0000_0000_0010 = .instr (.div 3 1 2) ∧
    decode 0b0000_0011_0001_0111_0000_0000_0000_0010 = .instr (.divu 3 1 2) ∧
    decode 0b0000_0011_0001_1000_0000_0000_0000_0010 = .instr (.rem 3 1 2) ∧
    decode 0b0000_0011_0001_1001_0000_0000_0000_0010 = .instr (.remu 3 1 2) := by
  decide

theorem test_decode_arithmetic_immediate :
    decode 0b0001_0011_0001_0000_1000_0000_0000_0100 = .instr (.addi 3 1 0x8004) ∧
    decode 0b0001_0011_0001_0001_1000_0000_0000_0100 = .instr (.addui 3 1 0x8004) ∧
    decode 0b0001_0011_0001_0010_1000_0000_0000_0100 = .instr (.subi 3 1 0x8004) ∧
    decode 0b0001_0011_0001_0011_1000_0000_0000_0100 = .instr (.subui 3 1 0x8004) ∧
    decode 0b0001_0011_0001_0100_1000_0000_0000_0100 = .instr (.multi 3 1 0x8004) ∧
    decode 0b0001_0011_0001_0101_1000_0000_0000_0100 = .instr (.multui 3 1 0x8004) ∧
    decode 0b0001_0011_0001_0110_1000_0000_0000_0100 = .instr (.divi 3 1 0x8004) ∧
    decode 0b0001_0011_0001_0111_1000_0000_0000_0100 = .instr (.divui 3 1 0x8004) ∧
    decode 0b0001_0011_0001_1000_1000_0000_0000_0100 = .instr (.remi 3 1 0x8004) ∧
    decode 0b0001_0011_0001_1001_1000_0000_0000_0100 = .instr (.remui 3 1 0x8004) := by
  decide

theorem test_decode_load_constant :
    decode 0b0011_0011_0000_1110_1000_0000_0000_0100 = .instr (.lhi 3 0x8004) ∧
    decode 0b1100_0011_0000_0111_0011_0000_0000_0101 = .instr (.la 3 0x73005) := by
  decide

theorem test_decode_bitwise :
    decode 0b0000_0011_0001_1011_0000_0000_0000_0010 = .instr (.and 3 1 2) ∧
    decode 0b0001_0011_0001_1011_1000_0000_0000_0100 = .instr (.andi 3 1 0x8004) ∧
    decode 0b0000_0011_0001_1101_0000_0000_0000_0010 = .instr (.or 3 1 2) ∧
    decode 0b0001_0011_0001_1101_1000_0000_0000_0100 = .instr (.ori 3 1 0x8004) ∧
    decode 0b0000_0011_0001_1111_0000_0000_0000_0010 = .instr (.xor 3 1 2) ∧
    decode 0b0001_0011_0001_1111_1000_0000_0000_0100 = .instr (.xori 3 1 0x8004) ∧
    decode 0b0000_0011_0001_1010_0000_0000_0000_0010 = .instr (.sll 3 1 2) ∧
    decode 0b0001_0011_0001_1010_1000_0000_0000_0100 = .instr (.slli 3 1 0x8004) ∧
    decode 0b0000_0011_0001_1100_0000_0000_0000_0010 = .instr (.srl 3 1 2) ∧
    decode 0b0001_0011_0001_1100_1000_0000_0000_0100 = .instr (.srli 3 1 0x8004) ∧
    decode 0b0000_0011_0001_1110_0000_0000_0000_0010 = .instr (.sra 3 1 2) ∧
    decode 0b0001_0011_0001_1110_1000_0000_0000_0100 = .instr (.srai 3 1 0x8004) := by
  decide

theorem test_decode_test_register :
    decode 0b0010_0011_0001_0000_0000_0000_0000_0010 = .instr (.slt 3 1 2) ∧
    decode 0b0010_0011_0001_0001_0000_0000_0000_0010 = .instr (.sltu 3 1 2) ∧
    decode 0b0010_0011_0001_0010_0000_0000_0000_0010 = .instr (.sgt 3 1 2) ∧
    decode 0b0010_0011_0001_0011_0000_0000_0000_0010 = .instr (.sgtu 3 1 2) ∧
    decode 0b0010_0011_0001_0100_0000_0000_0000_0010 = .instr (.sle 3 1 2) ∧
    decode 0b0010_0011_0001_0101_0000_0000_0000_0010 = .instr (.sleu 3 1 2) ∧
    decode 0b0010_0011_0001_0110_0000_0000_0000_0010 = .instr (.sge 3 1 2) ∧
    decode 0b0010_0011_0001_0111_0000_0000_0000_0010 = .instr (.sgeu 3 1 2) ∧
    decode 0b0010_0011_0001_1000_0000_0000_0000_0010 = .instr (.seq 3 1 2) ∧
    decode 0b0010_0011_0001_1001_0000_0000_0000_0010 = .instr (.sequ 3 1 2) ∧
    decode 0b0010_0011_0001_1010_0000_0000_0000_0010 = .instr (.sne 3 1 2) ∧
    decode 0b0010_0011_0001_1011_0000_0000_0000_0010 = .instr (.sneu 3 1 2) := by
  decide

theorem test_decode_test_immediate :
    decode 0b0011_0011_0001_0000_1000_0000_0000_0100 = .instr (.slti 3 1 0x8004) ∧
    decode 0b0011_0011_0001_0001_1000_0000_0000_0100 = .instr (.sltui 3 1 0x8004) ∧
    decode 0b0011_0011_0001_0010_1000_0000_0000_0100 = .instr (.sgti 3 1 0x8004) ∧
    decode 0b0011_0011_0001_0011_1000_0000_0000_0100 = .instr (.sgtui 3 1 0x8004) ∧
    decode 0b0011_0011_0001_0100_1000_0000_0000_0100 = .instr (.slei 3 1 0x8004) ∧
    decode 0b0011_0011_0001_0101_1000_0000_0000_0100 = .instr (.sleui 3 1 0x8004) ∧
    decode 0b0011_0011_0001_0110_1000_0000_0000_0100 = .instr (.sgei 3 1 0x8004) ∧
    decode 0b0011_0011_0001_0111_1000_0000_0000_0100 = .instr (.sgeui 3 1 0x8004) ∧
    decode 0b0011_0011_0001_1000_1000_0000_0000_0100 = .instr (.seqi 3 1 0x8004) ∧
    decode 0b0011_0011_0001_1001_1000_0000_0000_0100 = .instr (.sequi 3 1 0x8004) ∧
    decode 0b0011_0011_0001_1010_1000_0000_0000_0100 = .instr (.snei 3 1 0x8004) ∧
    decode 0b0011_0011_0001_1011_1000_0000_0000_0100 = .instr (.sneui 3 1 0x8004) := by
  decide

theorem test_decode_branch :
    decode 0b0100_0000_0000_0111_0011_0000_0000_0101 = .instr (.j 0x73005) ∧
    decode 0b0101_0000_1110_0000_0000_0000_0000_0000 = .instr (.jr 14) ∧
    decode 0b0110_0000_0000_0111_0011_0000_0000_0101 = .instr (.jal 0x73005) ∧
    decode 0b0111_0000_1110_0000_0000_0000_0000_0000 = .instr (.jalr 14) ∧
    decode 0b1010_0000_1110_1111_1111_1111_1111_1011 = .instr (.beqz 14 0xFFFFB) ∧
    decode 0b1011_0000_1110_1111_1111_1111_1111_1011 = .instr (.bnez 14 0xFFFFB) := by
  decide

theorem test_decode_loadstore :
    decode 0b1000_0011_1110_1111_1111_1111_1111_1011 = .instr (.lw 3 14 0xFFFFB) ∧
    decode 0b1001_0011_1110_1111_1111_1111_1111_1011 = .instr (.sw 3 14 0xFFFFB) := by
  decide

theorem test_decode_special :
    decode 0b0011_1000_0001_1100_0000_0000_0000_0000 = .instr (.movgs 8 1) ∧
    decode 0b0011_0011_0101_1101_0000_0000_0000_0000 = .instr (.movsg 3 5) ∧
    decode 0b0010_0000_0000_1100_0000_0000_0000_0000 = .instr .brk ∧
    decode 0b0010_0000_0000_1101_0000_0000_0000_0000 = .instr .syscall ∧
    decode 0b0010_0000_0000_1110_0000_0000_0000_0000 = .instr .rfe := by
  decide

/-- Words that are no instruction's (spec/95_test_vectors.md V9). -/
theorem test_decode_unassigned :
    decode 0xD0000000 = .unassigned ∧ decode 0xE1234567 = .unassigned ∧ decode 0xFFFFFFFF = .unassigned ∧
    decode 0x200F0000 = .unassigned ∧ decode 0x312F0004 = .unassigned := by
  decide

/-- Words with a 1 in a field of zeros (spec/95_test_vectors.md V9). -/
theorem test_decode_reserved :
    decode 0x03100012 = .reserved ∧ decode 0x210C0000 = .reserved ∧ decode 0x200E0001 = .reserved ∧
    decode 0x311E1234 = .reserved ∧ decode 0xC2173000 = .reserved ∧ decode 0x41000000 = .reserved ∧
    decode 0x50F00001 = .reserved ∧ decode 0xA1300002 = .reserved ∧ decode 0x384C0001 = .reserved := by
  decide

/-! ## One step of each instruction -/

/-- Kernel mode at 0x00100, `$evec` = 0x80, `$1` = a, `$2` = b, `$13` = 0xAAAA (spec/95_test_vectors.md V8). -/
def machine (a b : Word) : State :=
  { State.reset with
    pc := 0x100, evec := 0x80
    regs := (((Vector.replicate 16 0).set 1 a).set 2 b).set 13 0xAAAA }

/-- The state after one step that fetches the word `w`. -/
def after (w : Nat) (s : State) : Option State :=
  match step (s.withFetchWord 32 w) with
  | .next t => some t
  | _ => none

/-- `$3` after the word `w` is run with `$1` = a and `$2` = b. -/
def gives (w : Nat) (a b : Word) : Option Word := (after w (machine a b)).map fun t => t.reg 3

/-- `$estat` and `$ear` after the word `w` is run with `$1` = a and `$2` = b. -/
def raises (w : Nat) (a b : Word) : Option (Word × Word) := (after w (machine a b)).map fun t => (t.estat, t.ear)

/-- `$cctrl`, `$estat`, `$ear`, `$ers` and `pc` after the word `w` is run. -/
def entry (w : Nat) (s : State) : Option (BitVec 12 × Word × Word × Word × Addr) :=
  (after w s).map fun t => (t.cctrl, t.estat, t.ear, t.ers, t.pc)

/-! Arithmetic and bitwise: spec/95_test_vectors.md V1 and V2. -/

theorem test_add_wraps : gives 0x03100002 0xFFFFFFFF 1 = some 0 := by decide
theorem test_add_overflow :
    entry 0x03100002 (machine 0x7FFFFFFF 1) = some (0x00C, 0x8000, 0x101, 0xAAAA, 0x80) := by decide
theorem test_addi :
    gives 0x13108000 0 0 = some 0xFFFF8000 ∧ raises 0x1310FFFF 0x80000000 0 = some (0x8000, 0x101) := by decide
theorem test_addu :
    gives 0x03110002 0x7FFFFFFF 1 = some 0x80000000 ∧ raises 0x03110002 0xFFFFFFFF 1 = some (0x8000, 0x101) := by decide
theorem test_addui :
    gives 0x1311FFFF 0xFFFF0000 0 = some 0xFFFFFFFF ∧ raises 0x1311FFFF 0xFFFF0001 0 = some (0x8000, 0x101) := by decide
theorem test_sub :
    gives 0x03120002 5 7 = some 0xFFFFFFFE ∧ raises 0x03120002 0 0x80000000 = some (0x8000, 0x101) := by decide
theorem test_subi : gives 0x1312FFFF 0 0 = some 1 ∧ raises 0x13120001 0x80000000 0 = some (0x8000, 0x101) := by decide
theorem test_subu :
    gives 0x03130002 0x80000000 1 = some 0x7FFFFFFF ∧ raises 0x03130002 5 7 = some (0x8000, 0x101) := by decide
theorem test_subui : gives 0x1313FFFF 0x00010000 0 = some 1 ∧ raises 0x13130001 0 0 = some (0x8000, 0x101) := by decide
theorem test_mult :
    gives 0x03140002 0x00010000 0xFFFF8000 = some 0x80000000 ∧ raises 0x03140002 0xB505 0xB505 = some (0x8000, 0x101) := by decide
theorem test_multi :
    gives 0x1314FFFD 7 0 = some 0xFFFFFFEB ∧ gives 0x13147FFF 0x00010001 0 = some 0x7FFF7FFF := by decide
theorem test_multu :
    gives 0x03150002 0x00010000 0x0000FFFF = some 0xFFFF0000 ∧ raises 0x03150002 0x00010000 0x00010000 = some (0x8000, 0x101) := by decide
theorem test_multui :
    gives 0x1315FFFF 3 0 = some 0x0002FFFD ∧ raises 0x1315FFFF 0x00010002 0 = some (0x8000, 0x101) := by decide
theorem test_div : gives 0x03160002 7 2 = some 3 ∧ raises 0x03160002 7 0 = some (0x8000, 0x101) := by decide
theorem test_divi : gives 0x13160007 0x64 0 = some 0xE ∧ raises 0x13160000 0x64 0 = some (0x8000, 0x101) := by decide
theorem test_divu :
    gives 0x03170002 0xFFFFFFFE 2 = some 0x7FFFFFFF ∧ raises 0x03170002 1 0 = some (0x8000, 0x101) := by decide
theorem test_divui :
    gives 0x1317FFFF 0x80000000 0 = some 0x8000 ∧ raises 0x13170000 0 0 = some (0x8000, 0x101) := by decide
theorem test_rem : gives 0x03180002 7 2 = some 1 ∧ raises 0x03180002 7 0 = some (0x8000, 0x101) := by decide
theorem test_remi : gives 0x1318000A 0x4D2 0 = some 4 ∧ raises 0x13180000 1 0 = some (0x8000, 0x101) := by decide
theorem test_remu :
    gives 0x03190002 0xFFFFFFFF 0x10 = some 0xF ∧ raises 0x03190002 5 0 = some (0x8000, 0x101) := by decide
theorem test_remui :
    gives 0x1319FFFF 0x80000000 0 = some 0x8000 ∧ raises 0x13190000 9 0 = some (0x8000, 0x101) := by decide
theorem test_lhi : gives 0x330E1234 0 0 = some 0x12340000 := by decide
theorem test_la : gives 0xC30FFFFF 0 0 = some 0x000FFFFF := by decide
theorem test_and : gives 0x031B0002 0xF0F0F0F0 0x0FF00FF0 = some 0x00F000F0 := by decide
theorem test_or : gives 0x031D0002 0xF0F0F0F0 0x0FF00FF0 = some 0xFFF0FFF0 := by decide
theorem test_xor : gives 0x031F0002 0xF0F0F0F0 0x0FF00FF0 = some 0xFF00FF00 := by decide
theorem test_andi : gives 0x131BFFFF 0xFFFFFFFF 0 = some 0x0000FFFF := by decide
theorem test_ori : gives 0x131D8000 0 0 = some 0x00008000 := by decide
theorem test_xori : gives 0x131FFFFF 0xFFFFFFFF 0 = some 0xFFFF0000 := by decide
theorem test_sll :
    gives 0x031A0002 1 0x1F = some 0x80000000 ∧ gives 0x031A0002 0xFFFFFFFF 0xFFFFFFE4 = some 0xFFFFFFF0 := by decide
theorem test_slli : gives 0x131A001F 3 0 = some 0x80000000 ∧ gives 0x131AFFE1 3 0 = some 6 := by decide
theorem test_srl :
    gives 0x031C0002 0x80000000 0x1F = some 1 ∧ gives 0x031C0002 0x80000000 0x20 = some 0x80000000 := by decide
theorem test_srli : gives 0x131C0004 0xF0000000 0 = some 0x0F000000 := by decide
theorem test_sra :
    gives 0x031E0002 0x80000000 0x1F = some 0xFFFFFFFF ∧ gives 0x031E0002 0x7FFFFFFF 0x1F = some 0 := by decide
theorem test_srai :
    gives 0x131E0004 0xF0000000 0 = some 0xFF000000 ∧ gives 0x131E0004 0x70000000 0 = some 0x07000000 := by decide

/-! Tests: spec/95_test_vectors.md V3, the twelve functions in their order. -/

/-- What the twelve tests whose words follow `w` give. -/
def tests (w : Nat) (a b : Word) : List (Option Word) :=
  [0, 1, 2, 3, 4, 5, 6, 7, 8, 9, 10, 11].map fun n => gives (w + n * 0x10000) a b

/-- The same, as the rows of V3 print it. -/
def row (l : List Word) : List (Option Word) := l.map some

theorem test_register_tests_differ :
    tests 0x23100002 0xFFFFFFFF 1 = row [1, 0, 0, 1, 1, 0, 0, 1, 0, 0, 1, 1] := by decide
theorem test_register_tests_equal :
    tests 0x23100002 5 5 = row [0, 0, 0, 0, 1, 1, 1, 1, 1, 1, 0, 0] := by decide
theorem test_immediate_tests_sign_extend :
    tests 0x3310FFFF 0xFFFFFFFF 0 = row [0, 0, 0, 1, 1, 0, 1, 1, 1, 0, 0, 1] := by decide
theorem test_immediate_tests_zero_extend :
    tests 0x3310FFFF 0x0000FFFF 0 = row [0, 0, 1, 0, 0, 1, 1, 1, 0, 1, 1, 0] := by decide

/-! Jumps and branches: spec/95_test_vectors.md V4, with `$1` for the register of the vector. -/

/-- `pc` and `$15` after the word `w` is run at `a` with `$1` = `x`. -/
def goes (w : Nat) (a : Addr) (x : Word) : Option (Addr × Word) :=
  (after w ({ machine x 0 with pc := a })).map fun t => (t.pc, t.reg 15)

theorem test_j : goes 0x40012345 0x100 0 = some (0x12345, 0) := by decide
theorem test_jr : goes 0x50100000 0x200 0xABC00123 = some (0x00123, 0) := by decide
theorem test_jal : goes 0x60000300 0x3FF 0 = some (0x300, 0x400) := by decide
theorem test_jalr : goes 0x70100000 0x20 0xFFF00200 = some (0x200, 0x21) := by decide
theorem test_jalr_link_refused : exec (.jalr 15) (machine 0 0) = .refused .jumpAndLinkThroughLink := by rfl
theorem test_beqz_taken : goes 0xA0100002 0x10 0 = some (0x13, 0) ∧ goes 0xA00FFFFE 0 0 = some (0xFFFFF, 0) := by decide
theorem test_beqz_not_taken : goes 0xA0100002 0x10 1 = some (0x11, 0) := by decide
theorem test_bnez_taken :
    goes 0xB01FFFFB 8 1 = some (4, 0) ∧ goes 0xB017FFFF 0x100 0x80000000 = some (0x80100, 0) := by decide
theorem test_bnez_not_taken : goes 0xB01FFFFB 8 0 = some (9, 0) := by decide

/-! Loads and stores: spec/95_test_vectors.md V5. -/

/-- The user-mode state of V5: the table at 0x200, its word 0 = 0xA0000000, the other words 0. -/
def user (a b : Word) : State :=
  { machine a b with
    cctrl := 0x002, ptable := 0x200
    mem := (List.range 128).map fun i => (0x800 + i, if i = 3 then 0xA0 else 0) }

theorem test_lw :
    (after 0x83200007 ((machine 0 0x3FE0).writeWord 0x3FE7 0x11223344)).map (fun t => t.reg 3) = some 0x11223344 := by
  decide
theorem test_lw_forbidden :
    entry 0x81000400 (user 0 0) = some (0x009, 0x1000, 0x101, 0xAAAA, 0x80) := by decide
theorem test_sw :
    (after 0x925FFFFE ({ machine 0 0xAA with regs := (machine 0 0xAA).regs.set 5 0x42 })).map
      (fun t => (t.readWord 0x40, t.pc)) = some (0xAA, 0x101) := by decide
theorem test_sw_forbidden :
    (after 0x91000C00 ((user 9 0).writeWord 0xC00 1)).map (fun t => (t.readWord 0xC00, t.estat)) =
      some (1, 0x1000) := by decide

/-! Special instructions: spec/95_test_vectors.md V6 and V8. -/

theorem test_movgs :
    (after 0x381C0000 (machine 0xFFF00456 0)).map (fun t => (t.evec, t.pc)) = some (0xFFF00456, 0x101) := by decide
theorem test_movgs_estat_refused :
    exec (.movgs 5 1) (machine 0 0) = .refused (.unwritableSpecialRegister .estat) := by rfl
theorem test_movsg :
    (after 0x339D0000 ({ machine 0 0 with ear := 0xFFF00077 })).map (fun t => t.reg 3) = some 0xFFF00077 := by decide
theorem test_movsg_user :
    entry 0x324D0000 (user 0 0) = some (0x009, 0x1000, 0x101, 0xAAAA, 0x80) := by decide
theorem test_break : entry 0x200C0000 (user 0 0) = some (0x009, 0x4000, 0x101, 0xAAAA, 0x80) := by decide
theorem test_syscall :
    entry 0x200D0000 ({ machine 0 0 with cctrl := 0x00A }) = some (0x00D, 0x2000, 0x101, 0xAAAA, 0x80) := by decide
theorem test_rfe :
    entry 0x200E0000 ({ machine 0 0 with pc := 0x90, cctrl := 0x029, ear := 0xFFF00100, ers := 0xAAAA }) =
      some (0x023, 0, 0xFFF00100, 0xAAAA, 0x100) := by decide
theorem test_rfe_restores_13 :
    (after 0x200E0000 ({ machine 0 0 with ers := 0x1234 })).map (fun t => t.reg 13) = some 0x1234 := by decide
theorem test_unassigned_word : entry 0xD0000000 (machine 0 0) = some (0x00C, 0x1000, 0x101, 0xAAAA, 0x80) := by decide

/-! Interrupts: spec/95_test_vectors.md V8, over `add $3,$1,$2`. -/

/-- The state of V8 with the button pressed and `$cctrl` = `c`. -/
def pressed (c : BitVec 12) : State := { machine 0x7FFFFFFF 1 with cctrl := c, userPending := true }

theorem test_interrupt_wins : entry 0x03100002 (pressed 0x02A) = some (0x02D, 0x20, 0x100, 0xAAAA, 0x80) := by decide
theorem test_interrupt_held_back : entry 0x03100000 (pressed 0x028) = some (0x028, 0, 0, 0, 0x101) := by decide
theorem test_interrupt_masked : entry 0x03100000 (pressed 0x04A) = some (0x04A, 0, 0, 0, 0x101) := by decide
theorem test_two_interrupts :
    entry 0x03100002 ({ pressed 0x06A with timer := { Timer.reset with pending := true } }) =
      some (0x06D, 0x60, 0x100, 0xAAAA, 0x80) := by decide

/-! Protection: spec/95_test_vectors.md V7. -/

theorem test_protection_allows :
    (user 0 0).allowed 0x00000 = true ∧ (user 0 0).allowed 0x003FF = true ∧ (user 0 0).allowed 0x00800 = true ∧
    (user 0 0).allowed 0x00BFF = true := by decide
theorem test_protection_forbids :
    (user 0 0).allowed 0x00400 = false ∧ (user 0 0).allowed 0x007FF = false ∧ (user 0 0).allowed 0x00C00 = false ∧
    (user 0 0).allowed 0x07FFF = false ∧ (user 0 0).allowed 0x73000 = false ∧ (user 0 0).allowed 0xFFFFF = false := by
  decide

/-! Devices: spec/95_test_vectors.md V10 and S6, and the events of spec/60_exceptions.md. -/

/-- The timer of V10: automatic restart, load 3. -/
def ticking (auto : Bool) : Timer := { Timer.reset with enable := true, auto := auto, load := 3, count := 3 }

theorem test_timer_reload :
    [1, 2, 3, 4, 6].map (fun n => ((Nat.iterate Timer.tick n (ticking true)).count,
      (Nat.iterate Timer.tick n (ticking true)).pending, (Nat.iterate Timer.tick n (ticking true)).overrun)) =
    [(2, false, false), (1, false, false), (3, true, false), (2, true, false), (3, true, true)] := by decide
theorem test_timer_single_shot :
    (fun t : Timer => (t.count, t.pending, t.enable)) (Nat.iterate Timer.tick 3 (ticking false)) = (0, true, false) := by
  decide
theorem test_acknowledge :
    acknowledge (0b011#3) 0b000 = some 0b000 ∧ acknowledge (0b011#3) 0b001 = some 0b001 ∧
    acknowledge (0b011#3) 0b011 = some 0b011 ∧ acknowledge (0b011#3) 0b100 = none := by decide
theorem test_user_button :
    (after 0x9007F000 (pressed 0x008)).map (fun t => t.userPending) = some false := by decide
theorem test_timer_enable :
    (after 0x91072000 ({ machine 3 0 with timer := { Timer.reset with load := 0x5DC0 } })).map
      (fun t => (t.timer.enable, t.timer.auto, t.timer.count)) = some (true, true, 0x5DC0) := by decide
theorem test_serial_transmit :
    (after 0x91070000 (machine 0x141 0)).map (fun t => (t.serial1.tdr, t.serial1.tds)) = some (0x41, false) := by decide
theorem test_serial_receive :
    ((machine 0 0).apply (.serialReceive .second 0x5A)).serial2.rdr = 0x5A ∧
    ((machine 0 0).apply (.serialReceive .second 0x5A)).serial2.ready = true := by decide
theorem test_display_digit :
    (after 0x91073008 (machine 0xC 0)).map (fun t => t.parallel.displays t.params.parallel) =
      some [.digit 0, .digit 0, .digit 0xC, .digit 0] := by decide

/-- R316: enabling the transmit interrupt while the transmit register is empty leaves its pending bit to the free word, and
the receive bit as it was. -/
theorem test_serial_enable_while_empty :
    let q := { SerialPort.reset with pending := 0b011 }
    (q.storeControl Params.default.serial 0x200 0).pending = 0b001 ∧
    (q.storeControl Params.default.serial 0x200 7).pending = 0b011 := by decide
/-- R317, R374: with the script used up, a busy port has transmitted at the next boundary. -/
theorem test_serial_finishes :
    let s := { machine 0 0 with serial1 := { SerialPort.reset with tdr := 0x41, tds := false } }
    s.deliver.serial1.tds = true ∧ s.deliver.serial1.sent = [0x41] := by decide
/-- R372: a clock cycle passes at a boundary. -/
theorem test_boundary_cycle : (machine 0 0).deliver.timer.prescaler = 1301 := by decide
/-- R7, R32: with other numbers, number 1 is `$evec` and the default number of `$evec` names nothing. -/
theorem test_other_numbers :
    let p := { Params.default with spr := { Params.default.spr with evec := 1, distinct := by decide } }
    let s := { machine 5 0 with params := p }
    exec (.movgs 1 1) s = .next { s with evec := 5, pc := 0x101 } ∧
    exec (.movgs 8 1) s = .refused (.unnamedSpecialRegister 8) := by
  exact ⟨by rfl, by rfl⟩
/-- R323: with the decode off and the segment map reversed, bit 0 lights the decimal point. -/
theorem test_segments :
    let l := { Params.default.parallel with segmentMap := #v[7, 6, 5, 4, 3, 2, 1, 0], segmentsDistinct := by decide }
    ParallelPort.shows { State.reset.parallel with control := 0 } l 0x01 = .segments 0x80 := by decide

/-! ## States that meet the hypotheses of the statements, each clause at a boundary of its range -/

/-- Where an outcome is a next state, that state; used to name the state after an instruction. -/
def next (r : Result) (s : State) : State :=
  match r with
  | .next t => t
  | _ => s

theorem witness_EncodeOfDecode : decode 0x00000000 = .instr (.add 0 0 0) := by decide

theorem witness_StepRunsDecodedInstruction :
    let s := (machine 1 2).withFetchWord 32 0x03100002
    s.deliver.interruptPending = false ∧ s.deliver.fetch = .done 0x03100002 s.deliver ∧
    decode 0x03100002 = .instr (.add 3 1 2) := by
  exact ⟨by decide, by rfl, by decide⟩

theorem witness_StepRunsWordInMemory_ram :
    let s := ({ machine 1 2 with pc := 0x3FFF }).withFetchWord 32 0x03100002
    s.deliver.interruptPending = false ∧ s.deliver.mayAccess 0x3FFF ∧ s.deliver.based s.deliver.pc = 0x3FFF ∧
    decode (s.deliver.readWord 0x3FFF) = .instr (.add 3 1 2) := by
  exact ⟨by decide, .inl (by decide), by decide, by decide⟩

theorem witness_StepRunsWordInMemory_rom_user :
    let s := ({ user 1 2 with pc := 0x3FF }).withFetchWord 32 0x03100002
    s.deliver.interruptPending = false ∧ s.deliver.mayAccess 0x3FF ∧
    decode (s.deliver.readWord 0x3FF) = .instr (.add 3 1 2) ∧
    (let r := State.reset.withFetchWord 32 0x03100002
     r.deliver.interruptPending = false ∧ r.deliver.mayAccess 0x80000 ∧ r.deliver.based r.deliver.pc = 0x80000 ∧
     decode (r.deliver.readWord 0x80000) = .instr (.add 3 1 2)) := by
  exact ⟨by decide, .inr ⟨by decide, by decide⟩, by decide, by decide, .inl (by decide), by decide, by decide⟩

theorem witness_StepWithoutInstruction_forbidden :
    let s := { user 0 0 with pc := 0x400 }
    s.deliver.interruptPending = false ∧ s.deliver.ku = false ∧ s.deliver.tableInMemory = true ∧
    s.deliver.allowed (s.deliver.based s.deliver.pc) = false := by
  decide

theorem witness_StepWithoutInstruction_words :
    let s := (machine 0 0).withFetchWord 32 0xD0000000
    let r := ({ machine 0 0 with pc := 0x87FFF }).withFetchWord 32 0x03100012
    s.deliver.interruptPending = false ∧ s.deliver.mayAccess (s.deliver.based s.deliver.pc) ∧
    decode (s.deliver.readWord 0x100) = .unassigned ∧
    r.deliver.interruptPending = false ∧ r.deliver.mayAccess (r.deliver.based r.deliver.pc) ∧
    decode (r.deliver.readWord 0x87FFF) = .reserved := by
  exact ⟨by decide, .inl (by decide), by decide, by decide, .inl (by decide), by decide⟩

theorem witness_PendingInterruptIsTaken : (pressed 0x02A).deliver.interruptPending = true := by decide

theorem witness_InterruptThenReturn :
    (pressed 0x02A).deliver.interruptPending = true ∧
    { machine 0 0 with cctrl := 0x02A, script := [[.userButton]] }.deliver.interruptPending = true := by
  decide

theorem witness_ReturnFromException : (machine 0 0).ku = true := by decide

theorem witness_PrivilegedInUserMode : (user 0 0).ku = false := by decide

/-- A next state with its cause bit set, and no cause bit before: the form of each clause of OnlyItsInstructionRaises. -/
def sets (bit : Nat) (i : Instr) (s : State) : Bool :=
  match exec i s with
  | .next t => s.estat = 0 && t.estat.getLsbD bit
  | _ => false

theorem witness_OnlyItsInstructionRaises :
    sets 14 .brk (machine 0 0) = true ∧ sets 13 .syscall (machine 0 0) = true ∧ sets 12 .rfe (user 0 0) = true ∧
    sets 12 (.lw 1 0 0x400) (user 0 0) = true ∧ sets 15 (.divu 1 1 0) (machine 0 0) = true := by
  decide

/-- For MoveToSpecial, SpecialMovesWithoutMeaning, MoveFromSpecial and ControlReadThenWrittenBack. -/
theorem witness_SpecialMoves :
    let n := (machine 0 7).params.spr
    (machine 0 7).ku = true ∧ (machine 0 7).reg 1 = 0 ∧ (machine 0 7).reg 2 ≠ 0 ∧ (2 : RegNum) ≠ 0 ∧
    (0 : RegNum) ∉ [n.cctrl, n.estat, n.icount, n.ccount, n.evec, n.ear, n.ers, n.ptable, n.rbase] := by
  decide

/-- Operands whose sum, difference and product are at the last value that fits, and at the first that does not. -/
theorem witness_SignedAddSubtractMultiply :
    let s := machine 0x7FFFFFFE 1
    let t := machine 0x80000000 0xFFFFFFFF
    (s.reg 1).toInt + (s.reg 2).toInt = 2 ^ 31 - 1 ∧ (t.reg 1).toInt * (t.reg 2).toInt = 2 ^ 31 ∧
    (t.reg 1).toInt + (t.reg 2).toInt = -2 ^ 31 - 1 ∧ (t.reg 1).toInt - (t.reg 0).toInt = -2 ^ 31 ∧
    (t.reg 1).toInt - (s.reg 2).toInt = -2 ^ 31 - 1 ∧ (t.reg 1).toInt * (s.reg 2).toInt = -2 ^ 31 := by
  decide

theorem witness_UnsignedAddSubtractMultiply :
    let s := machine 0xFFFFFFFF 1
    ((s.reg 1).toNat : Int) + (s.reg 0).toNat = 2 ^ 32 - 1 ∧ ((s.reg 1).toNat : Int) + (s.reg 2).toNat = 2 ^ 32 ∧
    ((s.reg 0).toNat : Int) - (s.reg 2).toNat = -1 ∧ ((s.reg 1).toNat : Int) * (s.reg 2).toNat = 2 ^ 32 - 1 := by
  decide

/-- For UnsignedDivideRemainder and SignedDivideRemainder. -/
theorem witness_Divide :
    let s := machine 0 1
    (s.reg 2).toNat ≠ 0 ∧ (s.reg 1).toNat = 0 ∧ 0 ≤ (s.reg 1).toInt ∧ 0 < (s.reg 2).toInt ∧
    (0x7FFF#16).signExtend 32 ≠ 0 ∧ 0 < ((0x7FFF#16).signExtend 32).toInt ∧ (0#16).signExtend 32 = 0 := by
  decide

theorem witness_JumpAndLink : (14 : RegNum) ≠ 15 := by decide

/-- The first and the last word of RAM and of ROM, in kernel mode; and an allowed one in user mode. -/
theorem witness_LoadAndStoreWord :
    let s := machine 0 0x80000
    s.rbase = 0 ∧ s.mayAccess 0x3FFF ∧ (s.accessed 0 0x3FFF) = 0x3FFF ∧ (s.accessed 1 0) = 0 ∧
    (s.accessed 2 0) = 0x80000 ∧ (s.accessed 2 0x7FFF) = 0x87FFF ∧
    (user 0 0).mayAccess 0x3FF ∧ ((user 0 0).accessed 0 0x3FF) = 0x3FF := by
  exact ⟨by decide, .inl (by decide), by decide, by decide, by decide, by decide, .inr ⟨by decide, by decide⟩, by decide⟩

theorem witness_ForbiddenAccessFaults :
    (user 0 0).ku = false ∧ (user 0 0).tableInMemory = true ∧
    (user 0 0).allowed ((user 0 0).accessed 0 0x400) = false := by
  decide

theorem witness_AccessesWithoutMeaning_table :
    ({ user 0 0 with ptable := 0x3FE1 }).ku = false ∧ ({ user 0 0 with ptable := 0x3FE1 }).tableInMemory = false := by
  decide

/-- The edges of the unassigned ranges, and an address of each other clause. -/
theorem witness_AccessesWithoutMeaning_addresses :
    let s := machine 0 1
    (∀ a : Addr, s.mayAccess a) ∧ s.reg 2 ≠ 0 ∧
    [0x04000, 0x6FFFF, 0x70005, 0x70FFF, 0x71005, 0x71FFF, 0x72004, 0x72FFF, 0x7300B, 0x7EFFF, 0x7F001, 0x7FFFF,
      0x88000, 0xFFFFF, 0x80000, 0x87FFF, 0x70000, 0x71000, 0x70001, 0x73001, 0x7F000].map (s.accessed 0) =
    [0x04000, 0x6FFFF, 0x70005, 0x70FFF, 0x71005, 0x71FFF, 0x72004, 0x72FFF, 0x7300B, 0x7EFFF, 0x7F001, 0x7FFFF,
      0x88000, 0xFFFFF, 0x80000, 0x87FFF, 0x70000, 0x71000, 0x70001, 0x73001, 0x7F000] := by
  exact ⟨fun _ => .inl (by decide), by decide, by decide⟩

/-- The state after `sw $2, 0x3FFF($0)`. -/
def stored : State := next (exec (.sw 2 0 0x3FFF) (machine 0 0xCAFE)) (machine 0 0)

/-- The state after the step that runs the zero word, `add $0,$0,$0`, that `stored` holds at 0x101. -/
def later : State := next (step (stored.writeWord 0x101 0)) stored

/-- The state after a load of the word stored, and after a load of another word. -/
def loaded (offset : BitVec 20) : State := next (exec (.lw 3 0 offset) later) later

theorem witness_StoreThenLoad :
    let s := (machine 0 0xCAFE).writeWord 0x101 0
    exec (.sw 2 0 0x3FFF) s = .next (stored.writeWord 0x101 0) ∧
    s.mayAccess (s.accessed 0 0x3FFF) ∧ (s.accessed 0 0x3FFF) = 0x3FFF ∧
    exec (.lw 3 0 0x3FFF) later = .next (loaded 0x3FFF) ∧ exec (.lw 3 0 0x80000) later = .next (loaded 0x80000) ∧
    later.mayAccess (later.accessed 0 0x3FFF) ∧ (later.accessed 0 0x3FFF) = 0x3FFF ∧
    later.mayAccess (later.accessed 0 0x80000) ∧ (later.accessed 0 0x80000) = 0x80000 ∧ (3 : RegNum) ≠ 0 := by
  exact ⟨by rfl, .inl (by decide), by decide, by rfl, by rfl, .inl (by decide), by decide, .inl (by decide), by decide,
    by decide⟩

/-- A step between the store and the load that stores nothing. -/
theorem witness_StoreThenLoad_later (a : Addr) : Later a (stored.writeWord 0x101 0) later := by
  refine .single ⟨by rfl, by decide, fun w u rd rs offset _ hf hd => ?_⟩
  have h : (stored.writeWord 0x101 0).deliver.fetch = .done 0 (stored.writeWord 0x101 0).deliver := by rfl
  injection h.symm.trans hf with hw
  subst hw
  have hadd : decode 0 = .instr (.add 0 0 0) := by decide
  cases hadd.symm.trans hd

theorem witness_StoreThenFetch :
    let s := machine 0 0x03100002
    let t := next (exec (.sw 2 0 0x101) s) s
    exec (.sw 2 0 0x101) s = .next t ∧ s.mayAccess (s.accessed 0 0x101) ∧ (s.accessed 0 0x101) = s.based (s.pc + 1) ∧
    decode (s.reg 2) = .instr (.add 3 1 2) ∧ .resetButton ∉ t.boundaryEvents ∧ t.deliver.interruptPending = false ∧
    t.mayAccess (s.accessed 0 0x101) := by
  exact ⟨by rfl, .inl (by decide), by decide, by decide, by decide, by decide, .inl (by decide)⟩

theorem witness_OnlyStoreWordChangesMemory : exec (.sw 2 0 0x3FFF) (machine 0 0xCAFE) = .next stored := by rfl

/-- Bit 31 of the first table word, bit 0 of the last; the first and the last address of a block. -/
theorem witness_ProtectionTableBits :
    0 < 32 ∧ 31 < 32 ∧ 0 * 0x8000 + 0 * 0x400 ≤ (0 : Addr).toNat ∧
    (0x3FF : Addr).toNat ≤ 0 * 0x8000 + 0 * 0x400 + 0x3FF ∧
    31 * 0x8000 + 31 * 0x400 ≤ (0xFFC00 : Addr).toNat ∧ (0xFFFFF : Addr).toNat ≤ 31 * 0x8000 + 31 * 0x400 + 0x3FF := by
  decide

/-- A state of spec/70_reset_and_hazards.md R358: the table in the last 32 words of RAM, all ones. -/
def launched : State :=
  { machine 0 0 with
    ptable := 0x3FE0, evec := 0x80010
    regs := (Vector.replicate 16 0).set 14 0x37FF
    mem := (List.range 128).map fun i => (0xFF80 + i, 0xFF) }

theorem witness_EverythingAllowedAtLaunch :
    launched.AtLaunch { main := 0x100, sp := 0x37FF, imageEnd := 0x200, handler := 0x80010, served := 0 } where
  pc := by decide
  mainInImage := by decide
  ku := by decide
  lines := by decide
  evec := by decide
  handlerInRom := by decide
  base := by decide
  stack := by decide
  stackInRam := by decide
  table := by decide
  tableAboveStack := by decide
  tableOpen := by decide
  quiet := by intro p; cases p <;> decide
  hexDecode := by decide

/-- For UserModeKeepsSpecialRegisters and UserModeCannotChangeForbidden: an instruction that completes in user mode, and one that
is turned away. -/
theorem witness_UserMode :
    let s := user 9 0
    s.ku = false ∧ exec (.sw 1 0 0x3FF) s = .next (next (exec (.sw 1 0 0x3FF) s) s) ∧
    exec (.sw 1 0 0x400) s = .next (next (exec (.sw 1 0 0x400) s) s) ∧ s.allowed 0x400 = false ∧
    s.allowed 0x70000 = false ∧ s.allowed 0x71000 = false ∧ s.allowed 0x72000 = false ∧ s.allowed 0x73000 = false ∧
    s.allowed 0x7F000 = false := by
  exact ⟨by decide, by rfl, by rfl, by decide, by decide, by decide, by decide, by decide, by decide⟩

/-- Two user-mode states that differ in a forbidden word. -/
theorem witness_UserModeCannotReadForbidden :
    (user 0 0).ku = false ∧ AgreeWhereAllowed (user 0 0) ((user 0 0).writeWord 0x400 0xCAFE) := by
  refine ⟨by decide, rfl, ?_, ?_⟩
  · intro w hw
    exact State.writeWord_readWord_other _ _ (by interval_cases w <;> decide)
  · intro a ha
    refine State.writeWord_readWord_other _ _ ?_
    rintro rfl
    exact absurd ha (by decide)

theorem witness_ControlAndStatusChanges :
    exec (.movgs 4 1) (machine 0x0FA 0) = .next (next (exec (.movgs 4 1) (machine 0x0FA 0)) (machine 0 0)) ∧
    exec .syscall (machine 0 0) = .next (next (exec .syscall (machine 0 0)) (machine 0 0)) := by
  exact ⟨by rfl, by rfl⟩

/-- A user-mode state with a table, and a step from it. -/
theorem witness_EveryStepKeepsInvariant :
    let s := (user 1 2).withFetchWord 32 0x91000400
    s.Inv ∧ step s = .next (next (step s) s) := by
  have low : (((user 1 2).withFetchWord 32 0x91000400).mem.all fun c => decide (c.1 / 4 < 0x4000)) = true := by decide
  refine ⟨⟨by decide, ?_, by decide, by decide, by decide, ?_, by decide⟩, by rfl⟩
  · exact fun c hc => .inl (of_decide_eq_true (List.all_eq_true.mp low c hc))
  · intro j k h; cases j <;> exact absurd h (by decide)

theorem witness_ResetValues :
    ∃ (p : Params) (s t : State), (t = State.resetWith p ∨ t = s.apply .resetButton) ∧ t = s.apply .resetButton :=
  ⟨Params.default, user 1 2, (user 1 2).apply .resetButton, .inr rfl, rfl⟩

theorem witness_RegisterFile : (15 : RegNum) ≠ 0 ∧ (1 : RegNum) ≠ 2 := by decide

/-! Devices: kernel mode may access every address, and `$1` holds the base. -/

theorem witness_kernel_may_access (a b : Word) (x : Addr) : (machine a b).mayAccess x :=
  .inl (show State.reset.ku = true by decide)

theorem witness_TimerLoadRegister : (machine 0x72001 0).accessed 1 0 = 0x72001 := by decide

/-- A timer with the load value set, idle, and one with the load value 0; one that counts. -/
theorem witness_TimerControlStore :
    let s := { machine 0x72000 3 with timer := { Timer.reset with load := 1 } }
    let r := { machine 0x72000 3 with timer := ticking true }
    s.accessed 1 0 = 0x72000 ∧ (s.reg 2).getLsbD 0 = true ∧ s.timer.enable = false ∧ s.timer.load ≠ 0 ∧
    (machine 0x72000 3).timer.load = 0 ∧ (machine 0x72000 3).timer.enable = false ∧
    (s.reg 0).getLsbD 0 = false ∧ r.timer.enable = true := by
  decide

theorem witness_TimerExpires :
    (ticking true).enable = true ∧ (ticking true).count.toNat = 2 + 1 ∧ (ticking true).auto = true ∧
    (ticking false).enable = true ∧ (ticking false).count.toNat = 2 + 1 ∧ (ticking false).auto = false := by
  decide

theorem witness_TickEvery2604Cycles :
    Timer.reset.prescaler = 1302 ∧ Timer.reset.signal = false ∧ .resetButton ∉ State.reset.boundaryEvents := by decide

/-- Acknowledge registers with a bit set and a bit clear. -/
theorem witness_AcknowledgeStores :
    let s := { machine 0x70004 0b001 with
      serial1 := { SerialPort.reset with pending := 0b011 }
      serial2 := { SerialPort.reset with pending := 0b001 }
      parallel := { State.reset.parallel with pending := true }
      timer := { Timer.reset with pending := true } }
    s.accessed 1 0 = SerialPortId.base .first + 4 ∧ s.accessed 1 0x1000 = SerialPortId.base .second + 4 ∧
    (∀ i, i < 3 → (s.reg 2).getLsbD i = true → s.serial1.pending.getLsbD i = true) ∧
    ((1 : Word).getLsbD 0 = true ∧ (machine 0 0).serial1.pending.getLsbD 0 = false) ∧
    s.accessed 1 0x03001 = 0x73005 ∧ ((s.reg 2).getLsbD 0 = true → s.parallel.pending = true) ∧
    ((s.reg 2).getLsbD 0 = true ∧ (machine 0 0).parallel.pending = false) ∧
    s.accessed 1 0x01FFF = 0x72003 ∧ ((s.reg 2).getLsbD 0 = true → s.timer.pending = true) ∧
    ((s.reg 2).getLsbD 1 = true → s.timer.overrun = true) ∧
    ((s.reg 2).getLsbD 0 = true ∧ (machine 0 0).timer.pending = false) ∧
    s.accessed 1 0x0EFFC = 0x7F000 ∧ s.reg 0 = 0 := by
  decide

/-- For SerialTransmit, SerialReceive and SerialControlStore: an empty and a full transmit register, a character ready; and
pending bits that a control store leaves as they were, `$2` turning no enable bit on. -/
theorem witness_Serial :
    let s := { machine 0x71000 0 with serial2 := { SerialPort.reset with ready := true } }
    let r := { machine 0x71000 0 with serial2 := { SerialPort.reset with tds := false } }
    s.accessed 1 0 = SerialPortId.base .second ∧ (s.serial .second).tds = true ∧ (r.serial .second).tds = false ∧
    s.accessed 1 1 = SerialPortId.base .second + 1 ∧ (s.serial .second).ready = true ∧
    s.accessed 1 2 = SerialPortId.base .second + 2 ∧ (machine 0x70000 0).accessed 1 2 = SerialPortId.base .first + 2 ∧
    (s.reg 2).getLsbD s.params.serial.txie = false := by
  decide

/-- A busy port, a script with one entry left, and a run as long as it. -/
theorem witness_SerialTransmit :
    let s := { machine 0 0 with serial1 := { SerialPort.reset with tds := false }, script := [[]], pc := 0xFF }
    let r := s.withFetchWord 32 0
    Steps 1 r (next (step r) r) ∧ r.script.length ≤ 1 ∧ (r.deliver.serial .first).tds = false := by
  exact ⟨⟨_, by rfl, rfl⟩, by decide, by decide⟩

theorem witness_InterruptLines : { SerialPort.reset with tds := false }.tds = false ∧ (1 : BitVec 3) ≠ 0 := by
  decide

/-- A store to a register of each width, then a load of it, of a lower display through its second address. -/
theorem witness_ParallelPortRegisters :
    let places : List Addr := [0x73002, 0x73008, 0x73003, 0x73009, 0x73006, 0x73007, 0x73004, 0x7300A]
    let t := next (exec (.sw 2 0 0x73002) (machine 0 7)) (machine 0 7)
    places.map ((machine 0 7).accessed 0) = places ∧ (t.accessed 0 0x73008) ∈ ([0x73002, 0x73008] : List Addr) ∧
    t.pc = 0x101 ∧ t.mayAccess 0x73008 := by
  exact ⟨by decide, by decide, by decide, .inl (by decide)⟩

theorem witness_ParallelPortRegisters_displays :
    State.reset.parallel.control.getLsbD State.reset.params.parallel.hex = true ∧
    { State.reset.parallel with control := 0 }.control.getLsbD State.reset.params.parallel.hex = false := by
  decide

/-- The last address is a status register whose port reports an error. -/
theorem witness_DeviceRegisterLoads :
    let s := (machine 0 0).apply (.serialErrors .second (some 0b101))
    let places : List Addr := [0x72000, 0x72001, 0x72002, 0x72003, 0x73000, 0x73001, 0x73002, 0x73008, 0x73003, 0x73009,
      0x73004, 0x73005, 0x73006, 0x73007, 0x7300A, 0x70002, 0x70004, 0x71003]
    places.map (s.accessed 0) = places ∧ s.serial2.errors = some 0b101 := by
  decide

end Sys2Proof.Tests
end

/-! PROOFS. The load-address instruction (spec/40_arithmetic.md R152). -/

namespace Sys2Proof

/-- The J-Type word of `la` decodes to it (spec/30_encoding.md R96, R101, R103). -/
theorem decode_encode_la (rd : RegNum) (addr : Addr) : decode (encode (.la rd addr)) = .instr (.la rd addr) := by
  simp [encode, decode, whenZero, opOf_jType, rdOf_jType, rsOf_jType, addrOf_jType]

namespace Machine

/-- The address `la` loads has the value of its field: the extension adds no bit. -/
theorem addressValue_toNat (addr : Addr) : (addressValue addr).toNat = addr.toNat :=
  BitVec.toNat_setWidth_of_le (by decide)

/-- `la` ends by retiring its zero-extended field; it does no access. -/
theorem exec_la (rd : RegNum) (addr : Addr) (s : State) :
    exec (.la rd addr) s = s.retire rd (addressValue addr) := rfl

/-- An instruction that ends by retiring a value runs and completes with it. -/
theorem runs_of_exec_eq_retire {w : Word} {i : Instr} {s : State} {rd : RegNum} {v : Word}
    (hd : decode w = .instr i) (he : exec i s = s.retire rd v) : Runs w i s (Completes rd v) :=
  ⟨hd, he ▸ s.retire_completes rd v⟩

/-- Settles O23: the word is the encoding of `la`, and `la` retires the extended field. -/
theorem loadAddress : Obligations.LoadAddress := by
  intro s rd addr
  exact ⟨addressValue addr, addressValue_toNat addr,
    runs_of_exec_eq_retire (decode_encode_la rd addr) (exec_la rd addr s)⟩

end Machine
end Sys2Proof

/-! PROOFS. The bitwise and shift instructions (spec/41_bitwise.md R160 to R174). -/

namespace Sys2Proof

/-- An R-Type word under opcode 0000 is the register form its `Func` names (spec/30_encoding.md R96, R97, R103). -/
theorem decode_rType_alu (rd rs : RegNum) (func : BitVec 4) (rt : RegNum) :
    decode (rType 0x0 rd rs func rt) = .instr (decodeAluR func.toNat rd rs rt) := by
  simp [decode, whenZero, opOf_rType, rdOf_rType, rsOf_rType, funcOf_rType, zeroOf_rType, rtOf_rType]

/-- An I-Type word under opcode 0001 is the immediate form its `Func` names (spec/30_encoding.md R96, R97). -/
theorem decode_iType_alu (rd rs : RegNum) (func : BitVec 4) (imm : BitVec 16) :
    decode (iType 0x1 rd rs func imm) = .instr (decodeAluI func.toNat rd rs imm) := by
  simp [decode, opOf_iType, rdOf_iType, rsOf_iType, funcOf_iType, immOf_iType]

namespace Machine

/-! ## The operands -/

/-- Zero extension adds only clear bits (spec/30_encoding.md R100 (b)). -/
theorem zeroImm_getLsbD (imm : BitVec 16) (i : Nat) : (zeroImm imm).getLsbD i = imm.getLsbD i := by
  have clear_above : 32 ≤ i → imm.getLsbD i = false := fun h => BitVec.getLsbD_of_ge imm i (by omega)
  rw [zeroImm, BitVec.getLsbD_setWidth]
  by_cases h : i < 32
  · simp [h]
  · simp [h, clear_above (by omega)]

/-- The low five bits of a register, as a number (spec/41_bitwise.md R173). -/
theorem shiftCount_eq_mod (c : Word) : shiftCount c = c.toNat % 32 := by
  simp [shiftCount, BitVec.extractLsb'_toNat]

/-- The low five bits of an immediate, as a number (spec/41_bitwise.md R173). -/
theorem shiftCountImm_eq_mod (imm : BitVec 16) : shiftCountImm imm = imm.toNat % 32 := by
  simp [shiftCountImm, BitVec.extractLsb'_toNat]

/-! ## What a shift by `n` does to the reading of a word -/

/-- Left multiplies and keeps the low 32 bits (spec/41_bitwise.md R167, R168). -/
theorem shiftLeft_toNat_eq_mul (x : Word) (n : Nat) : (x <<< n).toNat = x.toNat * 2 ^ n % 2 ^ 32 := by
  rw [BitVec.toNat_shiftLeft, Nat.shiftLeft_eq]

/-- Logical right divides the unsigned reading (spec/41_bitwise.md R169, R170). -/
theorem ushiftRight_toNat_eq_div (x : Word) (n : Nat) : (x >>> n).toNat = x.toNat / 2 ^ n := by
  rw [BitVec.toNat_ushiftRight, Nat.shiftRight_eq_div_pow]

/-- Arithmetic right divides the signed reading and rounds down (spec/41_bitwise.md R171, R172). -/
theorem sshiftRight_toInt_eq_div (x : Word) (n : Nat) : (x.sshiftRight n).toInt = x.toInt / 2 ^ n := by
  rw [BitVec.toInt_sshiftRight, Int.shiftRight_eq_div_pow]
  norm_cast

/-! ## The two formats -/

/-- A register form that ends by retiring `v` runs from its word and completes with `v`. -/
theorem runs_aluR {rd rs rt : RegNum} {func : BitVec 4} {i : Instr} {s : State} {v : Word}
    (hi : decodeAluR func.toNat rd rs rt = i) (he : exec i s = s.retire rd v) :
    Runs (0x0#4 ++ rd ++ rs ++ func ++ 0#12 ++ rt) i s (Completes rd v) :=
  runs_of_exec_eq_retire (hi ▸ decode_rType_alu rd rs func rt) he

/-- An immediate form that ends by retiring `v` runs from its word and completes with `v`. -/
theorem runs_aluI {rd rs : RegNum} {func : BitVec 4} {imm : BitVec 16} {i : Instr} {s : State} {v : Word}
    (hi : decodeAluI func.toNat rd rs imm = i) (he : exec i s = s.retire rd v) :
    Runs (0x1#4 ++ rd ++ rs ++ func ++ imm) i s (Completes rd v) :=
  runs_of_exec_eq_retire (hi ▸ decode_iType_alu rd rs func imm) he

/-! ## The statements -/

/-- Settles O25: each instruction retires the bitwise operation of its operands, and zero extension keeps every bit of the
immediate. -/
theorem logicalInstructions : Obligations.LogicalInstructions := by
  intro s rd rs rt imm
  refine ⟨⟨s.reg rs &&& s.reg rt, fun i => ?_, runs_aluR rfl rfl⟩,
    ⟨s.reg rs ||| s.reg rt, fun i => ?_, runs_aluR rfl rfl⟩,
    ⟨s.reg rs ^^^ s.reg rt, fun i => ?_, runs_aluR rfl rfl⟩,
    ⟨s.reg rs &&& zeroImm imm, fun i => ?_, runs_aluI rfl rfl⟩,
    ⟨s.reg rs ||| zeroImm imm, fun i => ?_, runs_aluI rfl rfl⟩,
    ⟨s.reg rs ^^^ zeroImm imm, fun i => ?_, runs_aluI rfl rfl⟩⟩
  · exact BitVec.getLsbD_and
  · exact BitVec.getLsbD_or
  · exact BitVec.getLsbD_xor
  · rw [BitVec.getLsbD_and, zeroImm_getLsbD]
  · rw [BitVec.getLsbD_or, zeroImm_getLsbD]
  · rw [BitVec.getLsbD_xor, zeroImm_getLsbD]

/-- Settles O26: each instruction retires the shift of its first operand by the count, which is the second operand
modulo 32. -/
theorem shifts : Obligations.Shifts := by
  intro s rd rs rt imm n m
  have register_count : shiftCount (s.reg rt) = n := shiftCount_eq_mod (s.reg rt)
  have immediate_count : shiftCountImm imm = m := shiftCountImm_eq_mod imm
  exact ⟨⟨s.reg rs <<< shiftCount (s.reg rt), register_count ▸ shiftLeft_toNat_eq_mul _ _, runs_aluR rfl rfl⟩,
    ⟨s.reg rs <<< shiftCountImm imm, immediate_count ▸ shiftLeft_toNat_eq_mul _ _, runs_aluI rfl rfl⟩,
    ⟨s.reg rs >>> shiftCount (s.reg rt), register_count ▸ ushiftRight_toNat_eq_div _ _, runs_aluR rfl rfl⟩,
    ⟨s.reg rs >>> shiftCountImm imm, immediate_count ▸ ushiftRight_toNat_eq_div _ _, runs_aluI rfl rfl⟩,
    ⟨(s.reg rs).sshiftRight (shiftCount (s.reg rt)), register_count ▸ sshiftRight_toInt_eq_div _ _, runs_aluR rfl rfl⟩,
    ⟨(s.reg rs).sshiftRight (shiftCountImm imm), immediate_count ▸ sshiftRight_toInt_eq_div _ _, runs_aluI rfl rfl⟩⟩

end Machine
end Sys2Proof

/-! PROOFS. The test instructions (spec/42_test.md R180 to R206). -/

namespace Sys2Proof

/-- Under opcode 0010, the first twelve values of `Func` are the register forms of the tests (spec/30_encoding.md R98). -/
theorem decodeOp2_of_func_lt {w : Word} (h : (funcOf w).toNat < 12) :
    decodeOp2 w = whenZero (zeroOf w == 0) (decodeTestR (funcOf w).toNat (rdOf w) (rsOf w) (rtOf w)) := by
  unfold decodeOp2
  split
  case h_5 => rfl
  all_goals omega -- the other four rows have `Func` 12 or more

/-- Under opcode 0011, the first twelve values of `Func` are the immediate forms of the tests (spec/30_encoding.md R99). -/
theorem decodeOp3_of_func_lt {w : Word} (h : (funcOf w).toNat < 12) :
    decodeOp3 w = .instr (decodeTestI (funcOf w).toNat (rdOf w) (rsOf w) (immOf w)) := by
  unfold decodeOp3
  split
  case h_5 => rfl
  all_goals omega -- the other four rows have `Func` 12 or more

/-- An R-Type word of a test decodes to the register form its `Func` names (spec/30_encoding.md R96, R98, R103). -/
theorem decode_rType_test (rd rs : RegNum) {func : BitVec 4} (rt : RegNum) (h : func.toNat < 12) :
    decode (rType 0x2 rd rs func rt) = .instr (decodeTestR func.toNat rd rs rt) := by
  have to_op2 : decode (rType 0x2 rd rs func rt) = decodeOp2 (rType 0x2 rd rs func rt) := by simp [decode, opOf_rType]
  rw [to_op2, decodeOp2_of_func_lt (by rwa [funcOf_rType])]
  simp [whenZero, rdOf_rType, rsOf_rType, funcOf_rType, zeroOf_rType, rtOf_rType]

/-- An I-Type word of a test decodes to the immediate form its `Func` names (spec/30_encoding.md R96, R99). -/
theorem decode_iType_test (rd rs : RegNum) {func : BitVec 4} (imm : BitVec 16) (h : func.toNat < 12) :
    decode (iType 0x3 rd rs func imm) = .instr (decodeTestI func.toNat rd rs imm) := by
  have to_op3 : decode (iType 0x3 rd rs func imm) = decodeOp3 (iType 0x3 rd rs func imm) := by simp [decode, opOf_iType]
  rw [to_op3, decodeOp3_of_func_lt (by rwa [funcOf_iType]), rdOf_iType, rsOf_iType, funcOf_iType, immOf_iType]

namespace Machine

/-- The unsigned reading of an immediate is that of its zero extension (spec/30_encoding.md R100 (b)). -/
theorem zeroImm_toNat (imm : BitVec 16) : (zeroImm imm).toNat = imm.toNat :=
  BitVec.toNat_setWidth_of_le (by decide)

/-- The word a test gives is 1 where its relation holds and 0 where it does not (spec/42_test.md R206). -/
theorem testResult_decide (p : Prop) [Decidable p] : testResult (decide p) = if p then 1 else 0 := by
  by_cases h : p <;> simp [testResult, h]

/-- A register form that retires the test of a relation `p` runs from its word and completes with 1 where `p` holds, else
with 0. -/
theorem runs_testR {rd rs rt : RegNum} {func : BitVec 4} {i : Instr} {s : State} {p : Prop} [Decidable p]
    (hi : decodeTestR func.toNat rd rs rt = i) (he : exec i s = s.retire rd (testResult (decide p)))
    (hf : func.toNat < 12 := by decide) :
    Runs (0x2#4 ++ rd ++ rs ++ func ++ 0#12 ++ rt) i s (Completes rd (if p then 1 else 0)) :=
  runs_of_exec_eq_retire (hi ▸ decode_rType_test rd rs rt hf) (testResult_decide p ▸ he)

/-- An immediate form that retires the test of a relation `p` runs from its word and completes with 1 where `p` holds, else
with 0. -/
theorem runs_testI {rd rs : RegNum} {func : BitVec 4} {imm : BitVec 16} {i : Instr} {s : State} {p : Prop} [Decidable p]
    (hi : decodeTestI func.toNat rd rs imm = i) (he : exec i s = s.retire rd (testResult (decide p)))
    (hf : func.toNat < 12 := by decide) :
    Runs (0x3#4 ++ rd ++ rs ++ func ++ imm) i s (Completes rd (if p then 1 else 0)) :=
  runs_of_exec_eq_retire (hi ▸ decode_iType_test rd rs imm hf) (testResult_decide p ▸ he)

/-! ## The statements

Each conjunct is one instruction: its `Func` is that of a test, decodes to it, and it retires the test of its relation. -/

/-- Settles O27: the relation is of the signed readings of the two registers. -/
theorem testsSignedRegisters : Obligations.TestsSignedRegisters := by
  intro s rd rs rt a b
  exact ⟨runs_testR rfl rfl, runs_testR rfl rfl, runs_testR rfl rfl, runs_testR rfl rfl,
    runs_testR rfl rfl, runs_testR rfl rfl⟩

/-- Settles O28: the relation is of the signed readings of the register and of the sign-extended immediate. -/
theorem testsSignedImmediates : Obligations.TestsSignedImmediates := by
  intro s rd rs imm a b
  exact ⟨runs_testI rfl rfl, runs_testI rfl rfl, runs_testI rfl rfl, runs_testI rfl rfl,
    runs_testI rfl rfl, runs_testI rfl rfl⟩

/-- Settles O29: the relation is of the unsigned readings of the two registers. -/
theorem testsUnsignedRegisters : Obligations.TestsUnsignedRegisters := by
  intro s rd rs rt a b
  exact ⟨runs_testR rfl rfl, runs_testR rfl rfl, runs_testR rfl rfl, runs_testR rfl rfl,
    runs_testR rfl rfl, runs_testR rfl rfl⟩

/-- Settles O30: the relation is of the unsigned readings of the register and of the immediate, whose zero extension the
instruction compares. -/
theorem testsUnsignedImmediates : Obligations.TestsUnsignedImmediates := by
  intro s rd rs imm
  rw [← zeroImm_toNat imm]
  intro a b
  exact ⟨runs_testI rfl rfl, runs_testI rfl rfl, runs_testI rfl rfl, runs_testI rfl rfl,
    runs_testI rfl rfl, runs_testI rfl rfl⟩

end Machine
end Sys2Proof

/-! PROOFS. The unconditional jumps without a link (spec/43_branch.md R211, R212). -/

namespace Sys2Proof

/-- The J-Type word of `j` decodes to it (spec/30_encoding.md R96, R103). -/
theorem decode_encode_j (addr : Addr) : decode (encode (.j addr)) = .instr (.j addr) := by
  simp [encode, decode, whenZero, opOf_jType, rdOf_jType, rsOf_jType, addrOf_jType]

/-- The J-Type word of `jr` decodes to it (spec/30_encoding.md R96, R103). -/
theorem decode_encode_jr (rs : RegNum) : decode (encode (.jr rs)) = .instr (.jr rs) := by
  simp [encode, decode, whenZero, opOf_jType, rdOf_jType, rsOf_jType, addrOf_jType]

namespace Machine

/-- `j` does nothing but the jump to its field. -/
theorem exec_j (addr : Addr) (s : State) : exec (.j addr) s = .next (s.jump addr) := rfl

/-- `jr` does nothing but the jump to the low 20 bits of its register. -/
theorem exec_jr (rs : RegNum) (s : State) :
    exec (.jr rs) s = .next (s.jump ((s.reg rs).extractLsb' 0 20)) := rfl

/-- An instruction that ends by setting the program counter runs and jumps there. -/
theorem runs_of_exec_eq_jump {w : Word} {i : Instr} {s : State} {target : Addr}
    (hd : decode w = .instr i) (he : exec i s = .next (s.jump target)) : Runs w i s (Jumps target) :=
  ⟨hd, s.jump target, he, s.jump_jumps target⟩

/-- Settles O31: each word is the encoding of its instruction, and the instruction only sets the program counter. -/
theorem jumpAndJumpRegister : Obligations.JumpAndJumpRegister := by
  intro s rs addr
  constructor
  · exact runs_of_exec_eq_jump (decode_encode_j addr) (exec_j addr s)
  · exact runs_of_exec_eq_jump (decode_encode_jr rs) (exec_jr rs s)

end Machine
end Sys2Proof

/-! PROOFS. The interrupt condition (spec/60_exceptions.md R270). -/

namespace Sys2Proof.Machine

/-- A bit vector is not 0 where one of its bits is 1. -/
theorem ne_zero_iff_exists_getLsbD {n : Nat} (v : BitVec n) : v ≠ 0 ↔ ∃ i, i < n ∧ v.getLsbD i = true := by
  rw [Ne, BitVec.eq_of_getLsbD_eq_iff]
  simp

/-- The interrupt condition, line by line (spec/60_exceptions.md R270). -/
theorem State.interruptPending_iff (s : State) :
    s.interruptPending = true ↔ ∃ i, i < 8 ∧ s.lines.getLsbD i = true ∧ s.lineEnabled i = true := by
  rw [State.interruptPending, bne_iff_ne, ne_zero_iff_exists_getLsbD]
  refine exists_congr fun i => and_congr_right fun hi => ?_
  rw [BitVec.getLsbD_and, s.enabledLines_getLsbD i hi, Bool.and_eq_true]

/-- Settles O9: a line is enabled where IE and its bit of the mask are 1. -/
theorem interruptCondition : Obligations.InterruptCondition := by
  intro s
  simp only [s.interruptPending_iff, State.lineEnabled, Bool.and_eq_true]

end Sys2Proof.Machine

/-! PROOFS. The timer's load register (spec/60_exceptions.md R332), and `lw` and `sw` of device registers, of which it is
one (spec/44_loadstore.md R231, R232). -/

namespace Sys2Proof

/-- The J-Type word of `lw` decodes to it (spec/30_encoding.md R95, R96). -/
theorem decode_encode_lw (rd rs : RegNum) (offset : BitVec 20) :
    decode (encode (.lw rd rs offset)) = .instr (.lw rd rs offset) := by
  simp [encode, decode, opOf_jType, rdOf_jType, rsOf_jType, addrOf_jType]

/-- The J-Type word of `sw` decodes to it (spec/30_encoding.md R95, R96). -/
theorem decode_encode_sw (rd rs : RegNum) (offset : BitVec 20) :
    decode (encode (.sw rd rs offset)) = .instr (.sw rd rs offset) := by
  simp [encode, decode, opOf_jType, rdOf_jType, rsOf_jType, addrOf_jType]

namespace Machine

/-! ## Loads that change nothing -/

theorem SameSpecial.trans {s t u : State} (h : SameSpecial s t) (k : SameSpecial t u) : SameSpecial s u :=
  ⟨k.params.trans h.params, k.cctrl.trans h.cctrl, k.estat.trans h.estat, k.icount.trans h.icount,
    k.ccount.trans h.ccount, k.evec.trans h.evec, k.ear.trans h.ear, k.ers.trans h.ers, k.ptable.trans h.ptable,
    k.rbase.trans h.rbase⟩

theorem SameDevices.trans {s t u : State} (h : SameDevices s t) (k : SameDevices t u) : SameDevices s u :=
  ⟨k.serial1.trans h.serial1, k.serial2.trans h.serial2, k.parallel.trans h.parallel, k.timer.trans h.timer,
    k.userPending.trans h.userPending, k.script.trans h.script⟩

/-- What completes from the state after a read without side effect completes from the state before it. -/
theorem Completes.of_read {s u t : State} {rd : RegNum} {v : Word} (read : ReadFrame s u) (devices : SameDevices s u)
    (h : Completes rd v u t) : Completes rd v s t where
  result := h.result
  others q hq := (h.others q hq).trans (read.registers q)
  pc := by rw [h.pc, read.pc]
  special := read.special.trans h.special
  memory k := (h.memory k).trans (read.memory k)
  devices := devices.trans h.devices

/-- A `lw` that the protection check lets through, of an address whose read leaves the devices alone, completes with what
the read gives. -/
theorem runs_lw_of_busRead {s u : State} {rd rs : RegNum} {offset : BitVec 20} {v : Word}
    (access : s.mayAccess (s.accessed rs offset)) (read : s.busRead (s.accessed rs offset) = .done v u)
    (devices : SameDevices s u) :
    Runs (0x8#4 ++ rd ++ rs ++ offset) (.lw rd rs offset) s (Completes rd v) := by
  obtain ⟨t, retires, completes⟩ := u.retire_completes rd v
  exact ⟨decode_encode_lw rd rs offset, t, (execLw_done access read).trans retires,
    completes.of_read (State.busRead_done read) devices⟩

/-! ## Stores outside RAM -/

/-- A write of the bus outside RAM, then the next instruction: a store of a device register. -/
theorem State.busWrite_stores {s u : State} {a : Addr} {v : Word} (write : s.busWrite a v = .done () u)
    (outside : ¬a.toNat < 0x4000) : Stores u s u.advance := by
  have frame := State.busWrite_done write
  have mem : u.mem = s.mem := frame.mem.resolve_right fun h => outside h.1
  exact
    { pc := by rw [State.advance_pc, frame.pc]
      registers := frame.registers
      special := frame.special.trans (by constructor <;> rfl)
      memory := fun k => by rw [State.advance_readByte, State.readByte, mem, frame.ramEpoch, State.readByte]
      devices := by constructor <;> rfl }

/-- A `sw` that the protection check lets through, outside RAM, stores what the write of the bus makes of the devices. -/
theorem runs_sw_of_busWrite {s u : State} {rd rs : RegNum} {offset : BitVec 20}
    (access : s.mayAccess (s.accessed rs offset))
    (write : s.busWrite (s.accessed rs offset) (s.reg rd) = .done () u)
    (outside : ¬(s.accessed rs offset).toNat < 0x4000) :
    Runs (0x9#4 ++ rd ++ rs ++ offset) (.sw rd rs offset) s (Stores u) :=
  ⟨decode_encode_sw rd rs offset, u.advance, execSw_done access write, State.busWrite_stores write outside⟩

/-! ## The timer's registers -/

/-- A read of a timer register gives it, free bits above it, and draws those (spec/60_exceptions.md R331 to R334). -/
theorem State.busRead_timer (s : State) {a : Addr} {r : TimerReg} (h : regionOf a = .timer r) :
    s.busRead a = .done (s.timer.loadReg s.params.timer r s.free) s.drawn := by
  rw [State.busRead, h]

/-- A write of a timer register that has a meaning changes the timer and nothing else (spec/60_exceptions.md R331 to
R335). -/
theorem State.busWrite_timer (s : State) {a : Addr} {r : TimerReg} {v : Word} {t : Timer} (h : regionOf a = .timer r)
    (store : s.timer.storeReg s.params.timer r v = .ok t) : s.busWrite a v = .done () { s with timer := t } := by
  simp only [State.busWrite, h, store]

/-- The load register stands at offset 1 of the timer (spec/60_exceptions.md R330). -/
theorem regionOf_timerLoad : regionOf 0x72001 = .timer .load := by decide

/-- A load of the load register returns it in the low bits (spec/60_exceptions.md R332). -/
theorem Timer.loadReg_load_low (t : Timer) (l : TimerLayout) (free : Word) :
    (t.loadReg l .load free).extractLsb' 0 16 = t.load := by
  rw [Timer.loadReg, ← BitVec.setWidth_eq_extractLsb' (by decide), loadNarrow_low _ _ (by decide)]

/-- A store to the load register keeps the low 16 bits and changes no other register of the timer, the count included
(spec/60_exceptions.md R332). -/
theorem Timer.storeReg_load (t : Timer) (l : TimerLayout) (v : Word) :
    t.storeReg l .load v = .ok { t with load := v.extractLsb' 0 16 } := by
  rw [Timer.storeReg, BitVec.setWidth_eq_extractLsb' (by decide)]

/-- Settles O50: both accesses go through to the load register, whose store changes no other field of the timer and whose
load gives it in the low bits. -/
theorem timerLoadRegister : Obligations.TimerLoadRegister := by
  intro s rd rs offset address access
  have region : regionOf (s.accessed rs offset) = .timer .load := address ▸ regionOf_timerLoad
  rw [← address] at access
  constructor
  · refine runs_sw_of_busWrite access (s.busWrite_timer region (s.timer.storeReg_load _ _)) ?_
    rw [address]
    decide
  · exact ⟨_, s.timer.loadReg_load_low s.params.timer s.free,
      runs_lw_of_busRead access (s.busRead_timer region) (by constructor <;> rfl)⟩

end Machine
end Sys2Proof

/-! PROOFS. Encoding and decoding (spec/30_encoding.md R93 to R108): each is the other's inverse, row by row of the opcode
maps, and the words that are no instruction's. -/

namespace Sys2Proof

/-! ## The word of an instruction decodes to it -/

/-- The I-Type word of `lhi` decodes to it (spec/30_encoding.md R99, R103). -/
theorem decode_encode_lhi (rd : RegNum) (imm : BitVec 16) : decode (encode (.lhi rd imm)) = .instr (.lhi rd imm) := by
  simp [encode, decode, decodeOp3, whenZero, opOf_iType, rdOf_iType, rsOf_iType, funcOf_iType, immOf_iType]

/-- The I-Type word of `movgs` decodes to it (spec/30_encoding.md R99, R102). -/
theorem decode_encode_movgs (sd rs : RegNum) : decode (encode (.movgs sd rs)) = .instr (.movgs sd rs) := by
  simp [encode, decode, decodeOp3, whenZero, opOf_iType, rdOf_iType, rsOf_iType, funcOf_iType, immOf_iType]

/-- The I-Type word of `movsg` decodes to it (spec/30_encoding.md R99, R102). -/
theorem decode_encode_movsg (rd ss : RegNum) : decode (encode (.movsg rd ss)) = .instr (.movsg rd ss) := by
  simp [encode, decode, decodeOp3, whenZero, opOf_iType, rdOf_iType, rsOf_iType, funcOf_iType, immOf_iType]

/-- The J-Type word of `jal` decodes to it (spec/30_encoding.md R96, R103). -/
theorem decode_encode_jal (addr : Addr) : decode (encode (.jal addr)) = .instr (.jal addr) := by
  simp [encode, decode, whenZero, opOf_jType, rdOf_jType, rsOf_jType, addrOf_jType]

/-- The J-Type word of `jalr` decodes to it (spec/30_encoding.md R96, R103). -/
theorem decode_encode_jalr (rs : RegNum) : decode (encode (.jalr rs)) = .instr (.jalr rs) := by
  simp [encode, decode, whenZero, opOf_jType, rdOf_jType, rsOf_jType, addrOf_jType]

/-- The J-Type word of `beqz` decodes to it (spec/30_encoding.md R96, R103). -/
theorem decode_encode_beqz (rs : RegNum) (offset : BitVec 20) :
    decode (encode (.beqz rs offset)) = .instr (.beqz rs offset) := by
  simp [encode, decode, whenZero, opOf_jType, rdOf_jType, rsOf_jType, addrOf_jType]

/-- The J-Type word of `bnez` decodes to it (spec/30_encoding.md R96, R103). -/
theorem decode_encode_bnez (rs : RegNum) (offset : BitVec 20) :
    decode (encode (.bnez rs offset)) = .instr (.bnez rs offset) := by
  simp [encode, decode, whenZero, opOf_jType, rdOf_jType, rsOf_jType, addrOf_jType]

/-- The words of `break`, `syscall` and `rfe`, which have no operand (spec/30_encoding.md R98, R103). -/
theorem decode_encode_alone :
    decode (encode .brk) = .instr .brk ∧ decode (encode .syscall) = .instr .syscall ∧
      decode (encode .rfe) = .instr .rfe := by
  decide

/-- Settles O1: each instruction stands in one row of the opcode maps, the arithmetic, logical and test instructions in the
rows of their opcode by `Func`. -/
theorem decodeOfEncode : Obligations.DecodeOfEncode := by
  intro i
  cases i with
  | lhi rd imm => exact decode_encode_lhi rd imm
  | la rd addr => exact decode_encode_la rd addr
  | j addr => exact decode_encode_j addr
  | jr rs => exact decode_encode_jr rs
  | jal addr => exact decode_encode_jal addr
  | jalr rs => exact decode_encode_jalr rs
  | beqz rs offset => exact decode_encode_beqz rs offset
  | bnez rs offset => exact decode_encode_bnez rs offset
  | lw rd rs offset => exact decode_encode_lw rd rs offset
  | sw rd rs offset => exact decode_encode_sw rd rs offset
  | movgs sd rs => exact decode_encode_movgs sd rs
  | movsg rd ss => exact decode_encode_movsg rd ss
  | brk => exact decode_encode_alone.1
  | syscall => exact decode_encode_alone.2.1
  | rfe => exact decode_encode_alone.2.2
  | add | addu | sub | subu | mult | multu | div | divu | rem | remu | sll | and | srl | or | sra | xor =>
    exact decode_rType_alu ..
  | addi | addui | subi | subui | multi | multui | divi | divui | remi | remui | slli | andi | srli | ori | srai | xori =>
    exact decode_iType_alu ..
  | slt | sltu | sgt | sgtu | sle | sleu | sge | sgeu | seq | sequ | sne | sneu =>
    exact decode_rType_test _ _ _ (by decide)
  | slti | sltui | sgti | sgtui | slei | sleui | sgei | sgeui | seqi | sequi | snei | sneui =>
    exact decode_iType_test _ _ _ (by decide)

/-! ## A word that decodes to an instruction is its word -/

/-- Each row of the register forms under opcode 0000 has its own `Func` (spec/30_encoding.md R97). -/
theorem encode_decodeAluR (rd rs rt : RegNum) {n : Nat} (h : n < 16) :
    encode (decodeAluR n rd rs rt) = rType 0x0 rd rs (BitVec.ofNat 4 n) rt := by
  interval_cases n <;> rfl

/-- Each row of the immediate forms under opcode 0001 has its own `Func` (spec/30_encoding.md R97). -/
theorem encode_decodeAluI (rd rs : RegNum) (imm : BitVec 16) {n : Nat} (h : n < 16) :
    encode (decodeAluI n rd rs imm) = iType 0x1 rd rs (BitVec.ofNat 4 n) imm := by
  interval_cases n <;> rfl

/-- Each row of the register forms of the tests has its own `Func` (spec/30_encoding.md R98). -/
theorem encode_decodeTestR (rd rs rt : RegNum) {n : Nat} (h : n < 12) :
    encode (decodeTestR n rd rs rt) = rType 0x2 rd rs (BitVec.ofNat 4 n) rt := by
  interval_cases n <;> rfl

/-- Each row of the immediate forms of the tests has its own `Func` (spec/30_encoding.md R99). -/
theorem encode_decodeTestI (rd rs : RegNum) (imm : BitVec 16) {n : Nat} (h : n < 12) :
    encode (decodeTestI n rd rs imm) = iType 0x3 rd rs (BitVec.ofNat 4 n) imm := by
  interval_cases n <;> rfl

/-- A word is the R-Type word of its fields where the zero field is 0 (spec/30_encoding.md R93). -/
theorem rType_eq_of_fields {w : Word} {op : BitVec 4} {rd rs : RegNum} {func : BitVec 4} {rt : RegNum} (hop : opOf w = op)
    (hrd : rdOf w = rd) (hrs : rsOf w = rs) (hfunc : funcOf w = func) (hzero : zeroOf w = 0) (hrt : rtOf w = rt) :
    rType op rd rs func rt = w := by
  rw [← hop, ← hrd, ← hrs, ← hfunc, ← hrt, rType_fields w hzero]

/-- A word is the I-Type word of its fields (spec/30_encoding.md R94). -/
theorem iType_eq_of_fields {w : Word} {op : BitVec 4} {rd rs : RegNum} {func : BitVec 4} {imm : BitVec 16}
    (hop : opOf w = op) (hrd : rdOf w = rd) (hrs : rsOf w = rs) (hfunc : funcOf w = func) (himm : immOf w = imm) :
    iType op rd rs func imm = w := by
  rw [← hop, ← hrd, ← hrs, ← hfunc, ← himm, iType_fields]

/-- A word is the J-Type word of its fields (spec/30_encoding.md R95). -/
theorem jType_eq_of_fields {w : Word} {op : BitVec 4} {rd rs : RegNum} {addr : Addr} (hop : opOf w = op)
    (hrd : rdOf w = rd) (hrs : rsOf w = rs) (haddr : addrOf w = addr) : jType op rd rs addr = w := by
  rw [← hop, ← hrd, ← hrs, ← haddr, jType_fields]

/-- A row with fields that must be zero gives its instruction where they are (spec/30_encoding.md R106). -/
theorem whenZero_eq_instr {zero : Bool} {i j : Instr} : whenZero zero i = .instr j ↔ zero = true ∧ i = j := by
  cases zero <;> simp [whenZero]

/-- A row with fields that must be zero has no unassigned word (spec/30_encoding.md R104). -/
theorem whenZero_ne_unassigned (zero : Bool) (i : Instr) : whenZero zero i ≠ .unassigned := by
  cases zero <;> simp [whenZero]

/-- A number field of four bits by its value. -/
theorem eq_ofNat_of_toNat_eq {f : BitVec 4} {n : Nat} (h : f.toNat = n) : f = BitVec.ofNat 4 n := by
  rw [← h, BitVec.ofNat_toNat, BitVec.setWidth_eq]

/-- The word of an instruction under opcode 0010 (spec/30_encoding.md R98). -/
theorem encode_of_decodeOp2 {w : Word} {i : Instr} (hop : opOf w = 2) (h : decodeOp2 w = .instr i) : encode i = w := by
  have alone : ∀ {n : Nat}, (funcOf w).toNat = n → (rdOf w == 0 && rsOf w == 0 && immOf w == 0) = true →
      iType 0x2 0 0 (BitVec.ofNat 4 n) 0 = w := by
    intro n hn hz
    simp only [Bool.and_eq_true, beq_iff_eq] at hz
    exact iType_eq_of_fields hop hz.1.1 hz.1.2 (eq_ofNat_of_toNat_eq hn) hz.2
  have func_lt := (funcOf w).isLt
  unfold decodeOp2 at h
  dsimp only at h
  split at h
  · next hn =>
    obtain ⟨hz, rfl⟩ := whenZero_eq_instr.1 h
    exact (by decide : encode .brk = iType 0x2 0 0 0xC 0).trans (alone hn hz)
  · next hn =>
    obtain ⟨hz, rfl⟩ := whenZero_eq_instr.1 h
    exact (by decide : encode .syscall = iType 0x2 0 0 0xD 0).trans (alone hn hz)
  · next hn =>
    obtain ⟨hz, rfl⟩ := whenZero_eq_instr.1 h
    exact (by decide : encode .rfe = iType 0x2 0 0 0xE 0).trans (alone hn hz)
  · cases h
  · next not12 not13 not14 not15 =>
    have func_test : (funcOf w).toNat < 12 := by
      rw [imp_false] at not12 not13 not14 not15
      omega
    obtain ⟨hz, rfl⟩ := whenZero_eq_instr.1 h
    rw [encode_decodeTestR _ _ _ func_test]
    exact rType_eq_of_fields hop rfl rfl (eq_ofNat_of_toNat_eq rfl) (beq_iff_eq.1 hz) rfl

/-- The word of an instruction under opcode 0011 (spec/30_encoding.md R99). -/
theorem encode_of_decodeOp3 {w : Word} {i : Instr} (hop : opOf w = 3) (h : decodeOp3 w = .instr i) : encode i = w := by
  have func_lt := (funcOf w).isLt
  unfold decodeOp3 at h
  split at h
  · next hn =>
    obtain ⟨hz, rfl⟩ := whenZero_eq_instr.1 h
    exact iType_eq_of_fields hop rfl rfl (eq_ofNat_of_toNat_eq hn) (beq_iff_eq.1 hz)
  · next hn =>
    obtain ⟨hz, rfl⟩ := whenZero_eq_instr.1 h
    exact iType_eq_of_fields hop rfl rfl (eq_ofNat_of_toNat_eq hn) (beq_iff_eq.1 hz)
  · next hn =>
    obtain ⟨hz, rfl⟩ := whenZero_eq_instr.1 h
    exact iType_eq_of_fields hop rfl (beq_iff_eq.1 hz) (eq_ofNat_of_toNat_eq hn) rfl
  · cases h
  · next not12 not13 not14 not15 =>
    have func_test : (funcOf w).toNat < 12 := by
      rw [imp_false] at not12 not13 not14 not15
      omega
    injection h with h
    subst h
    rw [encode_decodeTestI _ _ _ func_test]
    exact iType_eq_of_fields hop rfl rfl (eq_ofNat_of_toNat_eq rfl) rfl

/-- Settles O2: along the rows of the decode procedure, the fields that are no operand are those the row prints. -/
theorem encodeOfDecode : Obligations.EncodeOfDecode := by
  intro w i h
  have both : ∀ {p q : Bool}, (p && q) = true → p = true ∧ q = true := fun {p q} => (Bool.and_eq_true p q).mp
  unfold decode at h
  split at h
  · next hop =>
    obtain ⟨hz, rfl⟩ := whenZero_eq_instr.1 h
    rw [encode_decodeAluR _ _ _ (funcOf w).isLt]
    exact rType_eq_of_fields (eq_ofNat_of_toNat_eq hop) rfl rfl (eq_ofNat_of_toNat_eq rfl) (beq_iff_eq.1 hz) rfl
  · next hop =>
    injection h with h
    subst h
    rw [encode_decodeAluI _ _ _ (funcOf w).isLt]
    exact iType_eq_of_fields (eq_ofNat_of_toNat_eq hop) rfl rfl (eq_ofNat_of_toNat_eq rfl) rfl
  · next hop => exact encode_of_decodeOp2 (eq_ofNat_of_toNat_eq hop) h
  · next hop => exact encode_of_decodeOp3 (eq_ofNat_of_toNat_eq hop) h
  · next hop =>
    obtain ⟨hz, rfl⟩ := whenZero_eq_instr.1 h
    exact jType_eq_of_fields (eq_ofNat_of_toNat_eq hop) (beq_iff_eq.1 (both hz).1) (beq_iff_eq.1 (both hz).2) rfl
  · next hop =>
    obtain ⟨hz, rfl⟩ := whenZero_eq_instr.1 h
    exact jType_eq_of_fields (eq_ofNat_of_toNat_eq hop) (beq_iff_eq.1 (both hz).1) rfl (beq_iff_eq.1 (both hz).2)
  · next hop =>
    obtain ⟨hz, rfl⟩ := whenZero_eq_instr.1 h
    exact jType_eq_of_fields (eq_ofNat_of_toNat_eq hop) (beq_iff_eq.1 (both hz).1) (beq_iff_eq.1 (both hz).2) rfl
  · next hop =>
    obtain ⟨hz, rfl⟩ := whenZero_eq_instr.1 h
    exact jType_eq_of_fields (eq_ofNat_of_toNat_eq hop) (beq_iff_eq.1 (both hz).1) rfl (beq_iff_eq.1 (both hz).2)
  · next hop => injection h with h; subst h; exact jType_eq_of_fields (eq_ofNat_of_toNat_eq hop) rfl rfl rfl
  · next hop => injection h with h; subst h; exact jType_eq_of_fields (eq_ofNat_of_toNat_eq hop) rfl rfl rfl
  · next hop =>
    obtain ⟨hz, rfl⟩ := whenZero_eq_instr.1 h
    exact jType_eq_of_fields (eq_ofNat_of_toNat_eq hop) (beq_iff_eq.1 hz) rfl rfl
  · next hop =>
    obtain ⟨hz, rfl⟩ := whenZero_eq_instr.1 h
    exact jType_eq_of_fields (eq_ofNat_of_toNat_eq hop) (beq_iff_eq.1 hz) rfl rfl
  · next hop =>
    obtain ⟨hz, rfl⟩ := whenZero_eq_instr.1 h
    exact jType_eq_of_fields (eq_ofNat_of_toNat_eq hop) rfl (beq_iff_eq.1 hz) rfl
  · cases h

/-! ## The words of no instruction -/

/-- The unassigned word under opcode 0010 (spec/30_encoding.md R104). -/
theorem decodeOp2_eq_unassigned (w : Word) : decodeOp2 w = .unassigned ↔ (funcOf w).toNat = 15 := by
  unfold decodeOp2
  dsimp only
  split
  case h_4 h => exact ⟨fun _ => h, fun _ => rfl⟩
  case h_5 not15 => exact ⟨fun h => absurd h (whenZero_ne_unassigned _ _), fun h => absurd h not15⟩
  all_goals exact ⟨fun h => absurd h (whenZero_ne_unassigned _ _), fun h => by omega⟩

/-- The unassigned word under opcode 0011 (spec/30_encoding.md R104). -/
theorem decodeOp3_eq_unassigned (w : Word) : decodeOp3 w = .unassigned ↔ (funcOf w).toNat = 15 := by
  unfold decodeOp3
  split
  case h_4 h => exact ⟨fun _ => h, fun _ => rfl⟩
  case h_5 not15 => exact ⟨nofun, fun h => absurd h not15⟩
  all_goals exact ⟨fun h => absurd h (whenZero_ne_unassigned _ _), fun h => by omega⟩

/-- The unassigned words by opcode and `Func` (spec/30_encoding.md R104). -/
theorem decode_eq_unassigned (w : Word) :
    decode w = .unassigned ↔
      13 ≤ (opOf w).toNat ∨ ((opOf w).toNat = 2 ∨ (opOf w).toNat = 3) ∧ (funcOf w).toNat = 15 := by
  have op_lt := (opOf w).isLt
  unfold decode
  split
  case h_3 h => rw [decodeOp2_eq_unassigned]; omega
  case h_4 h => rw [decodeOp3_eq_unassigned]; omega
  case h_14 =>
    refine ⟨fun _ => .inl ?_, fun _ => rfl⟩
    simp only [imp_false] at *
    omega
  case h_2 | h_9 | h_10 => exact ⟨nofun, fun h => by omega⟩
  all_goals exact ⟨fun h => absurd h (whenZero_ne_unassigned _ _), fun h => by omega⟩

/-- The opcode is the upper four bits of the word (spec/30_encoding.md R92). -/
theorem opOf_toNat (w : Word) : (opOf w).toNat = w.toNat / 2 ^ 28 := by
  have := w.isLt
  rw [opOf, BitVec.extractLsb'_toNat, Nat.shiftRight_eq_div_pow]
  omega

/-- `Func` is bits 19:16 of the word (spec/30_encoding.md R92). -/
theorem funcOf_toNat (w : Word) : (funcOf w).toNat = w.toNat / 2 ^ 16 % 16 := by
  rw [funcOf, BitVec.extractLsb'_toNat, Nat.shiftRight_eq_div_pow]

/-- Settles O3: the unassigned words are read off the decode procedure; what is left is an instruction's word, by the round
trip in both directions, or reserved. -/
theorem unassignedAndReservedWords : Obligations.UnassignedAndReservedWords := by
  intro w unassigned
  have iff_unassigned : decode w = .unassigned ↔ unassigned := by
    rw [decode_eq_unassigned, opOf_toNat, funcOf_toNat]
  refine ⟨iff_unassigned, ?_⟩
  rw [← iff_unassigned]
  constructor
  · intro reserved
    exact ⟨by simp [reserved], fun i hi => by simp [← hi, decodeOfEncode i] at reserved⟩
  · rintro ⟨assigned, noWord⟩
    cases hd : decode w with
    | instr i => exact absurd (encodeOfDecode w i hd) (noWord i)
    | unassigned => exact absurd hd assigned
    | reserved => rfl

/-- Settles O4: each printed word is decoded. -/
theorem printedWordsDecode : Obligations.PrintedWordsDecode := by
  refine ⟨?_, ?_, ?_, ?_, ?_, ?_, ?_, ?_⟩ <;> decide

end Sys2Proof

/-! PROOFS. Exceptions, privileged instructions and the special registers (spec/60_exceptions.md R260 to R280, R290, R291;
spec/45_special.md R241 to R246). -/

namespace Sys2Proof.Machine

/-! ## Which instruction raises which exception -/

/-- The instructions that raise each internal exception, and the mode they raise it in (spec/60_exceptions.md R261 to
R264). -/
def Raises (i : Instr) (s : State) : InternalCause → Prop
  | .arithmetic => raisesArithmetic i = true
  | .breakpoint => i = .brk
  | .syscall => i = .syscall
  | .generalProtection => s.ku = false ∧
      (i = .rfe ∨ (∃ a b, i = .movgs a b) ∨ (∃ a b, i = .movsg a b) ∨ (∃ a b o, i = .lw a b o) ∨ ∃ a b o, i = .sw a b o)

/-- An instruction that raises takes the exception (spec/60_exceptions.md R275, R276). -/
theorem State.raised_takes (s : State) (c : InternalCause) : Takes (some c) (s.pc + 1) s (s.raised c) :=
  s.enter_takes (some c) (s.pc + 1)

/-- What an instruction can do to the special registers: leave them all alone, take an exception that it raises, or, in
kernel mode, change others than `$estat`, and `$cctrl` by `rfe` and `movgs` only. -/
theorem Effect.special_cases {i : Instr} {s t : State} (h : Effect i s t) :
    SameSpecial s t ∨ (∃ c : InternalCause, Raises i s c ∧ Entered (some c) (s.pc + 1) s t) ∨
      s.ku = true ∧ t.estat = s.estat ∧ (t.cctrl = s.cctrl ∨ i = .rfe ∨ ∃ rs, i = .movgs s.params.spr.cctrl rs) := by
  cases h with
  | result rd v => exact .inl (by constructor <;> simp)
  | jump a => exact .inl (by constructor <;> simp)
  | link a => exact .inl (by constructor <;> simp)
  | load rd rs offset v u hi hu =>
    exact .inl ((State.busRead_done (State.checked_done hu).1).special.trans (by constructor <;> simp))
  | store rd rs offset u hi hu =>
    exact .inl ((State.busWrite_done (State.checked_done hu).1).special.trans (by constructor <;> simp))
  | arithmetic rd hi => exact .inr (.inl ⟨.arithmetic, hi, (s.scramble_raised_takes rd _).1⟩)
  | loadForbidden rd rs offset hi hk =>
    exact .inr (.inl ⟨.generalProtection, ⟨hk, .inr (.inr (.inr (.inl ⟨_, _, _, hi⟩)))⟩,
      (s.scramble_raised_takes rd _).1⟩)
  | storeForbidden rd rs offset hi hk =>
    exact .inr (.inl ⟨.generalProtection, ⟨hk, .inr (.inr (.inr (.inr ⟨_, _, _, hi⟩)))⟩, (s.raised_takes _).1⟩)
  | unprivileged hi hk =>
    exact .inr (.inl ⟨.generalProtection, ⟨hk, hi.imp_right (Or.imp_right .inl)⟩, (s.raised_takes _).1⟩)
  | breakpoint hi => exact .inr (.inl ⟨.breakpoint, hi, (s.raised_takes _).1⟩)
  | syscall hi => exact .inr (.inl ⟨.syscall, hi, (s.raised_takes _).1⟩)
  | writeSpecial sd rs r u hi hk hr hu =>
    refine .inr (.inr ⟨hk, ?_⟩)
    rcases State.writeSpr_ok hu with ⟨rfl, rfl⟩ | ⟨rfl, rfl⟩ | ⟨rfl, rfl⟩ | ⟨rfl, rfl⟩ | ⟨rfl, rfl⟩ | ⟨rfl, -, rfl⟩
    · exact ⟨rfl, .inr (.inr ⟨rs, hi.trans (by rw [(s.params.spr.named_eq_some sd _).1 hr]; rfl)⟩)⟩
    all_goals exact ⟨rfl, .inl rfl⟩
  | readSpecial rd ss r hi hk hr =>
    obtain ⟨ic, cc, d, e⟩ := s.readSpr_frame r
    exact .inr (.inr ⟨hk, by simp [e], .inl (by simp [e])⟩)
  | returned hi hk => exact .inr (.inr ⟨hk, by simp [State.returned], .inr (.inl hi)⟩)

/-- Settles O42: what is left of the cases where the mode is user mode. -/
theorem userModeKeepsSpecialRegisters : Obligations.UserModeKeepsSpecialRegisters := by
  intro i s t user h
  rcases (exec_effect h).special_cases with same | ⟨c, -, entered⟩ | ⟨kernel, -⟩
  · exact .inl same
  · exact .inr ⟨c, entered⟩
  · exact absurd (kernel.symm.trans user) (by decide)

/-- Settles O45: `$estat` differs in the case of an exception only, `$cctrl` also in that of kernel mode. -/
theorem controlAndStatusChanges : Obligations.ControlAndStatusChanges := by
  intro i s t h
  rcases (exec_effect h).special_cases with same | ⟨c, -, entered⟩ | ⟨kernel, estat, cctrl⟩
  · exact ⟨.inl same.cctrl, .inl same.estat⟩
  · exact ⟨.inr (.inl ⟨c, entered⟩), .inr ⟨c, entered⟩⟩
  · exact ⟨cctrl.imp_right fun privileged => .inr ⟨kernel, privileged⟩, .inl estat⟩

/-- Settles O14: `$estat` differs where an exception was taken, and it names the one that the instruction raises. -/
theorem onlyItsInstructionRaises : Obligations.OnlyItsInstructionRaises := by
  intro i s t h changed
  rcases (exec_effect h).special_cases with same | ⟨c, raises, entered⟩ | ⟨-, estat, -⟩
  · exact absurd same.estat changed
  · have named : ∀ k : InternalCause, t.estat.getLsbD k.bit = true → Raises i s k := fun k hk => by
      rw [entered.estat.internal k, decide_eq_true_eq, Option.some.injEq] at hk
      exact hk ▸ raises
    exact ⟨named .breakpoint, named .syscall, named .generalProtection, named .arithmetic⟩
  · exact absurd estat changed

/-! ## Taking an exception and returning from one -/

/-- Settles O11: each instruction is its row's word and raises its exception in both modes. -/
theorem breakAndSyscall : Obligations.BreakAndSyscall := fun s =>
  ⟨⟨decode_encode_alone.1, _, rfl, s.raised_takes .breakpoint⟩,
    ⟨decode_encode_alone.2.1, _, rfl, s.raised_takes .syscall⟩⟩

/-- A privileged instruction in kernel mode runs (spec/45_special.md R246). -/
theorem State.privileged_kernel {s : State} (hk : s.ku = true) (run : State → Result) : s.privileged run = run s :=
  if_pos hk

/-- A privileged instruction in user mode takes the General Protection Fault and does nothing else
(spec/45_special.md R246). -/
theorem State.privileged_user {s : State} (hk : s.ku = false) (run : State → Result) :
    s.privileged run = .next (s.raised .generalProtection) :=
  if_neg (by simp [hk])

/-- Settles O13: the mode is looked at before the operands. -/
theorem privilegedInUserMode : Obligations.PrivilegedInUserMode := by
  intro s rd rs hk
  refine ⟨⟨_, ?_, s.raised_takes _⟩, ⟨_, ?_, s.raised_takes _⟩, ⟨_, ?_, s.raised_takes _⟩⟩
  · simp only [exec, execMovgs, State.privileged_user hk]
  · simp only [exec, execMovsg, State.privileged_user hk]
  · simp only [exec, execRfe, State.privileged_user hk]

/-- `rfe` in kernel mode is the return (spec/45_special.md R245). -/
theorem exec_rfe_kernel {s : State} (hk : s.ku = true) : exec .rfe s = .next s.returned := by
  simp only [exec, execRfe, State.privileged_kernel hk]

/-- A return restores `$13` (spec/60_exceptions.md R280). -/
theorem State.returned_reg_13 (s : State) : s.returned.reg 13 = s.ers := by
  rw [State.returned, State.jump_reg, State.setReg_reg_self _ _ _ (by decide)]

/-- A return leaves the other registers alone. -/
theorem State.returned_reg_other (s : State) : SameRegistersBut 13 s s.returned := fun q hq => by
  rw [State.returned, State.jump_reg, State.setReg_reg_other _ _ hq]
  rfl

/-- A return goes to the low 20 bits of `$ear` (spec/60_exceptions.md R280, decision D27). -/
theorem State.returned_pc (s : State) : s.returned.pc = s.ear.setWidth 20 := rfl

/-- A return leaves every special register but `$cctrl` alone. -/
theorem State.returned_special (s : State) : SameSpecial { s with cctrl := s.returned.cctrl } s.returned := by
  constructor <;> simp [State.returned]

/-- A return leaves memory alone. -/
theorem State.returned_memory (s : State) : SameMemory s s.returned := fun k => by
  rw [State.returned, State.jump_readByte, State.setReg_readByte]
  rfl

/-- A return leaves the devices alone. -/
theorem State.returned_devices (s : State) : SameDevices s s.returned := by
  constructor <;> simp [State.returned]

/-- Settles O12: `rfe` is its row's word, and each part of the state after it is by the lemma about that part of a
return. -/
theorem returnFromException : Obligations.ReturnFromException := by
  intro s hk
  obtain ⟨oie, ie, oku, ku, mask⟩ := s.returned_flags
  exact ⟨decode_encode_alone.2.2, s.returned, exec_rfe_kernel hk, ie, ku, s.returned_reg_13,
    s.returned_pc.trans (BitVec.setWidth_eq_extractLsb' (by decide)), oie, oku, mask, s.returned_reg_other,
    s.returned_special, s.returned_memory, s.returned_devices⟩

/-! ## Interrupts -/

/-- Where the interrupt condition holds at the boundary, the step is the entry (spec/60_exceptions.md R272). -/
theorem step_interrupted {s : State} (h : s.deliver.interruptPending = true) : step s = .next s.deliver.interrupted :=
  if_pos h

/-- Where it does not hold, the step is one instruction (spec/60_exceptions.md R272). -/
theorem step_not_interrupted {s : State} (h : s.deliver.interruptPending = false) : step s = fetchAndExecute s.deliver :=
  if_neg (by simp [h])

/-- An interrupt is an entry with the address of the instruction not yet executed (spec/60_exceptions.md R276). -/
theorem State.interrupted_takes (s : State) : Takes none s.pc s s.interrupted := s.enter_takes none s.pc

/-- Settles O8: the step is the entry. -/
theorem pendingInterruptIsTaken : Obligations.PendingInterruptIsTaken := fun s h =>
  ⟨_, step_interrupted h, s.deliver.interrupted_takes⟩

/-- An address is kept in the low 20 bits of a word. -/
theorem setWidth_setWidth_addr (a : Addr) : (a.setWidth 32).setWidth 20 = a := by
  rw [BitVec.setWidth_setWidth_of_le _ (by decide), BitVec.setWidth_eq]

/-- A return right after an entry leaves every general register as it was: `$13` comes back from `$ers`
(spec/60_exceptions.md R275, R280). -/
theorem SameRegisters.of_takes_returned {c : Option InternalCause} {ra : Addr} {s t : State} (h : Takes c ra s t) :
    SameRegisters s t.returned := fun q => by
  obtain ⟨entered, registers⟩ := h
  by_cases hq : q = 13
  · rw [hq, t.returned_reg_13, entered.ers, registers]
  · rw [t.returned_reg_other q hq, registers]

/-- Settles O10: the return undoes the entry, part by part. -/
theorem interruptThenReturn : Obligations.InterruptThenReturn := by
  intro s h
  have takes := s.deliver.interrupted_takes
  have entered := takes.1
  obtain ⟨-, ie, -, ku, mask⟩ := s.deliver.interrupted.returned_flags
  exact ⟨_, _, step_interrupted h, exec_rfe_kernel entered.ku, .of_takes_returned takes,
    by rw [State.returned_pc, entered.ear, setWidth_setWidth_addr], ie.trans entered.oie, ku.trans entered.oku,
    mask.trans entered.mask, fun k => (State.returned_memory _ k).trans (entered.memory k),
    entered.devices.trans (State.returned_devices _)⟩

/-! ## Special registers -/

/-- `movgs` in kernel mode to a register that the value can be written to (spec/45_special.md R241). -/
theorem exec_movgs_ok {s u : State} {rs : RegNum} (r : Spr) (hk : s.ku = true) (hw : s.writeSpr r (s.reg rs) = .ok u) :
    exec (.movgs (s.params.spr.number r) rs) s = .next u.advance := by
  simp [exec, execMovgs, State.privileged_kernel hk, hw]

/-- `movgs` in kernel mode to a register that the value cannot be written to. -/
theorem exec_movgs_error {s : State} {rs : RegNum} {e : Refusal} (r : Spr) (hk : s.ku = true)
    (hw : s.writeSpr r (s.reg rs) = .error e) : exec (.movgs (s.params.spr.number r) rs) s = .refused e := by
  simp [exec, execMovgs, State.privileged_kernel hk, hw]

/-- `movgs` in kernel mode to a number that names no register (spec/10_state.md R46). -/
theorem exec_movgs_unnamed {s : State} {n rs : RegNum} (hk : s.ku = true) (hn : s.params.spr.named n = none) :
    exec (.movgs n rs) s = .refused (.unnamedSpecialRegister n) := by
  simp [exec, execMovgs, State.privileged_kernel hk, hn]

/-- `movsg` in kernel mode (spec/45_special.md R242). -/
theorem exec_movsg_kernel {s : State} {rd : RegNum} (r : Spr) (hk : s.ku = true) :
    exec (.movsg rd (s.params.spr.number r)) s = (s.readSpr r).2.retire rd (s.readSpr r).1 := by
  simp [exec, execMovsg, State.privileged_kernel hk]

/-- `movsg` in kernel mode from a number that names no register (spec/10_state.md R46). -/
theorem exec_movsg_unnamed {s : State} {rd n : RegNum} (hk : s.ku = true) (hn : s.params.spr.named n = none) :
    exec (.movsg rd n) s = .refused (.unnamedSpecialRegister n) := by
  simp [exec, execMovsg, State.privileged_kernel hk, hn]

/-- Settles O15: each register is written and the program counter advances. -/
theorem moveToSpecial : Obligations.MoveToSpecial := by
  intro s rs n writes hk
  have run : ∀ (r : Spr) (t : State), s.writeSpr r (s.reg rs) = .ok t → t.pc = s.pc → writes (n.number r) t :=
    fun r t hw hpc => ⟨decode_encode_movgs _ _, t.advance, exec_movgs_ok r hk hw, by rw [State.advance, hpc]⟩
  exact ⟨run .evec _ rfl rfl, run .ear _ rfl rfl, run .ers _ rfl rfl, run .ptable _ rfl rfl,
    run .cctrl _ (by rw [State.writeSpr, BitVec.setWidth_eq_extractLsb' (by decide)]) rfl,
    fun zero => run .rbase _ (if_pos zero) rfl⟩

/-- Settles O16: the writes without a meaning, and the numbers that name nothing. -/
theorem specialMovesWithoutMeaning : Obligations.SpecialMovesWithoutMeaning := by
  intro s r n hk
  refine ⟨exec_movgs_error .estat hk rfl, exec_movgs_error .icount hk rfl, exec_movgs_error .ccount hk rfl,
    fun nonzero => exec_movgs_error .rbase hk (if_neg nonzero), fun k hn => ?_⟩
  simp only [List.mem_cons, List.not_mem_nil, or_false, not_or] at hn
  have unnamed : n.named k = none := (n.named_eq_none k).2 fun q => by cases q <;> simp [SprNumbers.number, hn]
  exact ⟨exec_movgs_unnamed hk unnamed, exec_movsg_unnamed hk unnamed⟩

/-- A draw changes nothing that a read of the bus may not change. -/
theorem ReadFrame.drawn (s : State) : ReadFrame s s.drawn :=
  ⟨rfl, rfl, ⟨rfl, rfl, rfl, rfl, rfl, rfl, rfl, rfl, rfl, rfl⟩, rfl, rfl, rfl, rfl, rfl, rfl⟩

/-- What `retire` does after a draw. -/
theorem State.drawn_retire_completes (s : State) (rd : RegNum) (v : Word) :
    ∃ t, s.drawn.retire rd v = .next t ∧ Completes rd v s t := by
  obtain ⟨t, retires, completes⟩ := s.drawn.retire_completes rd v
  exact ⟨t, retires, completes.of_read (.drawn s) ⟨rfl, rfl, rfl, rfl, rfl, rfl⟩⟩

/-- Settles O17: a read gives the stored value; of `$cctrl` in its low bits; of a counter the value kept. -/
theorem moveFromSpecial : Obligations.MoveFromSpecial := by
  intro s rd n reads hk
  have stored : ∀ (r : Spr) (v : Word), s.readSpr r = (v, s) → reads (n.number r) (Completes rd v) := fun r v hr =>
    runs_of_exec_eq_retire (decode_encode_movsg _ _) (by rw [exec_movsg_kernel r hk, hr])
  refine ⟨stored .estat _ rfl, stored .evec _ rfl, stored .ear _ rfl, stored .ers _ rfl, stored .ptable _ rfl,
    stored .rbase _ rfl, ⟨loadNarrow s.cctrl s.free, ?_, ?_⟩, ⟨s.icount + s.free, ?_⟩, ⟨s.ccount + s.free, ?_⟩⟩
  · rw [← BitVec.setWidth_eq_extractLsb' (by decide), loadNarrow_low _ _ (by decide)]
  · exact ⟨decode_encode_movsg _ _, (exec_movsg_kernel .cctrl hk).symm ▸ s.drawn_retire_completes rd _⟩
  · obtain ⟨t, retires, completes⟩ :=
      State.drawn_retire_completes { s with icount := s.icount + s.free } rd (s.icount + s.free)
    exact ⟨decode_encode_movsg _ _, t, (exec_movsg_kernel .icount hk).trans retires, completes.special.icount, completes⟩
  · obtain ⟨t, retires, completes⟩ :=
      State.drawn_retire_completes { s with ccount := s.ccount + s.free } rd (s.ccount + s.free)
    exact ⟨decode_encode_movsg _ _, t, (exec_movsg_kernel .ccount hk).trans retires, completes.special.ccount, completes⟩

/-- Settles O18: the low 12 bits of what the read gave are what `$cctrl` stores. -/
theorem controlReadThenWrittenBack : Obligations.ControlReadThenWrittenBack := by
  intro s r hk hr
  obtain ⟨t, retires, completes⟩ := s.drawn_retire_completes r (loadNarrow s.cctrl s.free)
  have special := completes.special
  have kernel : t.ku = true := by rw [State.ku, special.cctrl, special.params]; exact hk
  have low : (t.reg r).setWidth 12 = s.cctrl := by rw [completes.result, if_neg hr, loadNarrow_low _ _ (by decide)]
  have write : exec (.movgs s.params.spr.cctrl r) t = .next (State.advance { t with cctrl := s.cctrl }) :=
    special.params ▸ exec_movgs_ok .cctrl kernel (by rw [State.writeSpr, low])
  exact ⟨t, _, (exec_movsg_kernel .cctrl hk).trans retires, write,
    special.trans (by constructor <;> simp [special.cctrl]), completes.others⟩

end Sys2Proof.Machine

/-! PROOFS. The step, and loads and stores of memory (spec/60_exceptions.md R272; spec/20_memory.md R63 to R82;
spec/44_loadstore.md R231 to R234). -/

namespace Sys2Proof.Machine

/-! ## The step -/

/-- A fetch from RAM or ROM that the protection check lets through gives the word there and changes nothing
(spec/20_memory.md R70, R74). -/
theorem State.fetch_memory {s : State} (access : s.mayAccess (s.based s.pc))
    (memory : (s.based s.pc).toNat < 0x4000 ∨ 0x80000 ≤ (s.based s.pc).toNat ∧ (s.based s.pc).toNat < 0x88000) :
    s.fetch = .done (s.readWord (s.based s.pc)) s :=
  (s.checked_open _ _ access).trans (s.busRead_memory memory)

/-- A fetched word is executed from the state after the fetch (spec/60_exceptions.md R272). -/
theorem step_of_fetch {s t : State} {w : Word} (h : s.deliver.interruptPending = false)
    (hf : s.deliver.fetch = .done w t) : step s = executeWord w t := by
  rw [step_not_interrupted h, fetchAndExecute, hf]

/-- A word that decodes to an instruction runs it. -/
theorem executeWord_instr {w : Word} {i : Instr} (s : State) (h : decode w = .instr i) : executeWord w s = exec i s := by
  rw [executeWord, h]

/-- An unassigned word takes the General Protection Fault (spec/30_encoding.md R105). -/
theorem executeWord_unassigned {w : Word} (s : State) (h : decode w = .unassigned) :
    executeWord w s = .next (s.raised .generalProtection) := by
  rw [executeWord, h]

/-- A reserved word has no meaning (spec/30_encoding.md R106). -/
theorem executeWord_reserved {w : Word} (s : State) (h : decode w = .reserved) :
    executeWord w s = .refused (.reservedEncoding w) := by
  rw [executeWord, h]

/-- A step whose fetch the table forbids takes the General Protection Fault (spec/20_memory.md R74). -/
theorem step_of_fetch_forbidden {s : State} (h : s.deliver.interruptPending = false)
    (hf : s.deliver.fetch = .protectionFault) : step s = .next (s.deliver.raised .generalProtection) := by
  rw [step_not_interrupted h, fetchAndExecute, hf]

/-- Settles O5: the fetched word is decoded and executed. -/
theorem stepRunsDecodedInstruction : Obligations.StepRunsDecodedInstruction := fun _ t _ _ h hf hd =>
  (step_of_fetch h hf).trans (executeWord_instr t hd)

/-- Settles O6: the fetch gives the word of memory. -/
theorem stepRunsWordInMemory : Obligations.StepRunsWordInMemory := fun s _ h access memory hd =>
  stepRunsDecodedInstruction s _ _ _ h (State.fetch_memory access memory) hd

/-- Settles O7: the three ways in which no instruction is executed. -/
theorem stepWithoutInstruction : Obligations.StepWithoutInstruction := by
  intro s u a faults h
  refine ⟨fun user table forbidden => ?_, fun access memory => ⟨fun unassigned => ?_, fun reserved => ?_⟩⟩
  · exact ⟨_, step_of_fetch_forbidden h (u.checked_forbidden a _ user table forbidden), u.raised_takes _⟩
  · exact ⟨_, (step_of_fetch h (State.fetch_memory access memory)).trans (executeWord_unassigned u unassigned),
      u.raised_takes _⟩
  · exact (step_of_fetch h (State.fetch_memory access memory)).trans (executeWord_reserved u reserved)

/-- Everything a step that ends in a next state can be: an interrupt taken, a forbidden fetch, an unassigned word, or an
instruction. -/
theorem step_cases {s t : State} (h : step s = .next t) :
    s.deliver.interruptPending = true ∧ t = s.deliver.interrupted ∨
    s.deliver.interruptPending = false ∧ (t = s.deliver.raised .generalProtection ∨
      ∃ w u, s.deliver.fetch = .done w u ∧
        (t = u.raised .generalProtection ∨ ∃ i, decode w = .instr i ∧ exec i u = .next t)) := by
  cases hp : s.deliver.interruptPending with
  | true =>
    rw [step_interrupted hp] at h
    injection h with h
    exact .inl ⟨rfl, h.symm⟩
  | false =>
    refine .inr ⟨rfl, ?_⟩
    cases hf : s.deliver.fetch with
    | done w u =>
      rw [step_of_fetch hp hf] at h
      refine .inr ⟨w, u, rfl, ?_⟩
      cases hd : decode w with
      | instr i => exact .inr ⟨i, rfl, (executeWord_instr u hd).symm.trans h⟩
      | unassigned =>
        rw [executeWord_unassigned u hd] at h
        injection h with h
        exact .inl h.symm
      | reserved => rw [executeWord_reserved u hd] at h; cases h
    | protectionFault =>
      rw [step_of_fetch_forbidden hp hf] at h
      injection h with h
      exact .inl h.symm
    | fault f => rw [step_not_interrupted hp, fetchAndExecute, hf] at h; cases h
    | refused r => rw [step_not_interrupted hp, fetchAndExecute, hf] at h; cases h

/-! ## Which words of memory an instruction changes -/

theorem SameMemory.refl (s : State) : SameMemory s s := fun _ => rfl

theorem SameMemory.trans {s t u : State} (h : SameMemory s t) (k : SameMemory t u) : SameMemory s u := fun key =>
  (k key).trans (h key)

/-- Where every byte outside the word at `a` reads as before, every other word does. -/
theorem SameMemoryBut.readWord {a b : Addr} {s t : State} (h : SameMemoryBut a s t) (hb : b ≠ a) :
    t.readWord b = s.readWord b := by
  have hn : b.toNat ≠ a.toNat := fun e => hb (BitVec.eq_of_toNat_eq e)
  simp only [State.readWord]
  rw [h _ (by omega), h _ (by omega), h _ (by omega), h _ (by omega)]

/-- Memory is kept in two fields of the state: the cells listed, and the number of the reset. -/
theorem SameMemory.of_mem {s t : State} (mem : t.mem = s.mem) (epoch : t.ramEpoch = s.ramEpoch) : SameMemory s t :=
  fun k => by rw [State.readByte, State.readByte, mem, epoch]

/-- Everything an instruction can do to memory: a store to RAM writes its word, and nothing else changes any. -/
theorem Effect.mem {i : Instr} {s t : State} (h : Effect i s t) :
    t.ramEpoch = s.ramEpoch ∧ (t.mem = s.mem ∨ ∃ rd rs offset, i = .sw rd rs offset ∧
      s.mayAccess (s.accessed rs offset) ∧ (s.accessed rs offset).toNat < 0x4000 ∧
      t.mem = s.mem.writeWord (s.accessed rs offset) (s.reg rd)) := by
  cases h with
  | store rd rs offset u hi hu =>
    obtain ⟨write, access⟩ := State.checked_done hu
    have frame := State.busWrite_done write
    exact ⟨frame.ramEpoch, frame.mem.imp_right fun stored => ⟨rd, rs, offset, hi, access, stored⟩⟩
  | load rd rs offset v u hi hu =>
    have frame := State.busRead_done (State.checked_done hu).1
    exact ⟨by simp [frame.ramEpoch], .inl (by simp [frame.mem])⟩
  | writeSpecial sd rs r u hi hk hr hu =>
    rcases State.writeSpr_ok hu with ⟨-, rfl⟩ | ⟨-, rfl⟩ | ⟨-, rfl⟩ | ⟨-, rfl⟩ | ⟨-, rfl⟩ | ⟨-, -, rfl⟩ <;>
      exact ⟨rfl, .inl rfl⟩
  | readSpecial rd ss r hi hk hr =>
    obtain ⟨ic, cc, d, e⟩ := s.readSpr_frame r
    exact ⟨by simp [e], .inl (by simp [e])⟩
  | result | jump | link => exact ⟨by simp, .inl (by simp)⟩
  | arithmetic | loadForbidden =>
    exact ⟨by simp [State.raised, State.scramble], .inl (by simp [State.raised, State.scramble])⟩
  | storeForbidden | unprivileged | breakpoint | syscall => exact ⟨rfl, .inl rfl⟩
  | returned hi hk => exact ⟨by simp [State.returned], .inl (by simp [State.returned])⟩

/-- Only a store changes memory, and only the word it accesses (spec/20_memory.md R76). -/
theorem Effect.memory {i : Instr} {s t : State} (h : Effect i s t) :
    SameMemory s t ∨ ∃ rd rs offset, i = .sw rd rs offset ∧ SameMemoryBut (s.accessed rs offset) s t := by
  obtain ⟨epoch, mem | ⟨rd, rs, offset, hi, -, -, mem⟩⟩ := h.mem
  · exact .inl (.of_mem mem epoch)
  · have written : SameMemory (s.writeWord (s.accessed rs offset) (s.reg rd)) t := .of_mem mem epoch
    exact .inr ⟨rd, rs, offset, hi, fun k hk => (written k).trans (s.writeWord_readByte_other _ _ hk)⟩

/-- Settles O39: the only effect on memory is that of a store. -/
theorem onlyStoreWordChangesMemory : Obligations.OnlyStoreWordChangesMemory := fun _ _ _ h => (exec_effect h).memory

/-! ## Loads and stores of RAM and ROM -/

/-- A load of RAM or ROM that the protection check lets through completes with the word there (spec/44_loadstore.md
R231). -/
theorem runs_lw_memory {s : State} {rd rs : RegNum} {offset : BitVec 20} (access : s.mayAccess (s.accessed rs offset))
    (memory : (s.accessed rs offset).toNat < 0x4000 ∨
      0x80000 ≤ (s.accessed rs offset).toNat ∧ (s.accessed rs offset).toNat < 0x88000) :
    Runs (0x8#4 ++ rd ++ rs ++ offset) (.lw rd rs offset) s (Completes rd (s.readWord (s.accessed rs offset))) :=
  runs_lw_of_busRead access (s.busRead_memory memory) (.refl s)

/-- A store to RAM that the protection check lets through writes the word (spec/44_loadstore.md R232). -/
theorem exec_sw_ram {s : State} {rd rs : RegNum} {offset : BitVec 20} (access : s.mayAccess (s.accessed rs offset))
    (ram : (s.accessed rs offset).toNat < 0x4000) :
    exec (.sw rd rs offset) s = .next (s.writeWord (s.accessed rs offset) (s.reg rd)).advance :=
  execSw_done access (s.busWrite_ram _ ram)

/-- The effective address as integer arithmetic modulo 2^20 (spec/44_loadstore.md R233, decision D2). -/
theorem effectiveAddress_toNat (base : Word) (offset : BitVec 20) :
    ((effectiveAddress base offset).toNat : Int) = (base.toNat + offset.toInt) % 2 ^ 20 := by
  have sign : (offset.signExtend 32).toInt = offset.toInt := BitVec.toInt_signExtend_of_le (by decide)
  have base_lt := base.isLt
  have offset_lt := offset.isLt
  have extended_lt := (offset.signExtend 32).isLt
  rw [BitVec.toInt_eq_toNat_cond, BitVec.toInt_eq_toNat_cond] at sign
  rw [effectiveAddress, BitVec.toNat_setWidth, BitVec.toNat_add, BitVec.toInt_eq_toNat_cond]
  split_ifs at sign ⊢ <;> omega

/-- With `$rbase` 0 no base is added (spec/20_memory.md R70, R71). -/
theorem State.based_of_base_zero {s : State} (h : s.rbase = 0) (a : Addr) : s.based a = a := by
  simp [State.based, h]

/-- Settles O34: the address, the load and the store. -/
theorem loadAndStoreWord : Obligations.LoadAndStoreWord := by
  intro s rd rs offset a
  refine ⟨fun base => ?_, runs_lw_memory, fun access ram => ?_⟩
  · rw [show a = effectiveAddress (s.reg rs) offset from State.based_of_base_zero base _, effectiveAddress_toNat]
  · refine ⟨decode_encode_sw rd rs offset, _, exec_sw_ram access ram, ?_, fun k hk => ?_, rfl, fun _ => rfl,
      by constructor <;> rfl, by constructor <;> rfl⟩
    · rw [State.advance_readWord, State.writeWord_readWord_self]
    · rw [State.advance_readByte, State.writeWord_readByte_other _ _ _ hk]

/-- Settles O35: the check forbids the access before it is made. -/
theorem forbiddenAccessFaults : Obligations.ForbiddenAccessFaults := fun s rd rs offset user table forbidden =>
  ⟨⟨decode_encode_lw rd rs offset, _, execLw_forbidden user table forbidden, s.scramble_raised_takes rd _⟩,
    ⟨decode_encode_sw rd rs offset, _, execSw_forbidden user table forbidden, s.raised_takes _⟩⟩

/-! ## Accesses without a meaning -/

/-- A serial port has five registers (spec/60_exceptions.md R310). -/
theorem serialRegAt_eq_none {n : Nat} : serialRegAt n = none ↔ 5 ≤ n := by
  unfold serialRegAt
  split <;> simp
  grind

/-- The timer has four registers (spec/60_exceptions.md R330). -/
theorem timerRegAt_eq_none {n : Nat} : timerRegAt n = none ↔ 4 ≤ n := by
  unfold timerRegAt
  split <;> simp
  grind

/-- The parallel port has registers at eleven addresses (spec/60_exceptions.md R320). -/
theorem parallelRegAt_eq_none {n : Nat} : parallelRegAt n = none ↔ 11 ≤ n := by
  unfold parallelRegAt
  split <;> simp
  grind

/-- The addresses between the devices, the memories and the end of the map (spec/20_memory.md R63). -/
theorem regionOf_unassigned {a : Addr}
    (h : 0x4000 ≤ a.toNat ∧ a.toNat < 0x70000 ∨ 0x70005 ≤ a.toNat ∧ a.toNat < 0x71000 ∨
      0x71005 ≤ a.toNat ∧ a.toNat < 0x72000 ∨ 0x72004 ≤ a.toNat ∧ a.toNat < 0x73000 ∨
      0x7300B ≤ a.toNat ∧ a.toNat < 0x7F000 ∨ 0x7F001 ≤ a.toNat ∧ a.toNat < 0x80000 ∨ 0x88000 ≤ a.toNat) :
    regionOf a = .unassigned := by
  have not_ram : ¬a.toNat < 0x4000 := by omega
  have not_rom : ¬(0x80000 ≤ a.toNat ∧ a.toNat < 0x88000) := by omega
  have not_user : ¬a.toNat = 0x7F000 := by omega
  simp only [regionOf, if_neg not_ram, if_neg not_rom, if_neg not_user]
  split
  · rw [serialRegAt_eq_none.2 (by omega)]; rfl
  · rw [serialRegAt_eq_none.2 (by omega)]; rfl
  · rw [timerRegAt_eq_none.2 (by omega)]; rfl
  · rw [parallelRegAt_eq_none.2 (by omega)]; rfl
  · rfl

/-- In user mode with the table outside RAM and ROM no access is made (spec/20_memory.md R74). -/
theorem State.checked_table_outside {α : Type} (s : State) (a : Addr) (go : Access α) (hk : s.ku = false)
    (ht : s.tableInMemory = false) : s.checked a go = .refused .protectionTableOutsideMemory := by
  simp [State.checked, hk, ht]

/-- A write to a read-only register has no meaning (spec/20_memory.md R67). -/
theorem State.busWrite_readOnly (s : State) {a : Addr} (v : Word)
    (h : a ∈ ([0x70001, 0x70003, 0x71001, 0x71003, 0x72002, 0x73000, 0x73001] : List Addr)) :
    s.busWrite a v = .refused .storeToReadOnly := by
  simp only [List.mem_cons, List.not_mem_nil, or_false] at h
  rcases h with rfl | rfl | rfl | rfl | rfl | rfl | rfl <;> rfl

/-- Settles O36: what the bus answers at each address. -/
theorem accessesWithoutMeaning : Obligations.AccessesWithoutMeaning := by
  intro s rd rs offset a lw sw
  refine ⟨fun user table => ?_, fun access => ⟨fun between => ?_, fun rom => ?_, fun transmit => ?_, fun readOnly => ?_,
    fun button => ⟨?_, fun nonzero => ?_⟩⟩⟩
  · constructor
    · simp only [lw, exec, execLw, State.memRead, State.checked_table_outside _ _ _ user table]
    · simp only [sw, exec, execSw, State.memWrite, State.checked_table_outside _ _ _ user table]
  · have region := regionOf_unassigned between
    exact ⟨execLw_fault access (by rw [State.busRead, region]), execSw_fault access (by rw [State.busWrite, region])⟩
  · exact execSw_refused access (by rw [State.busWrite, regionOf_rom rom])
  · refine execLw_refused access ?_
    change s.busRead a = _
    rcases transmit with h | h <;> rw [h] <;> rfl
  · exact execSw_refused access (s.busWrite_readOnly _ readOnly)
  · exact execLw_refused access (by rw [show s.accessed rs offset = _ from button]; rfl)
  · exact execSw_refused access (by rw [show s.accessed rs offset = _ from button]; exact if_neg nonzero)

/-! ## What is read later -/

/-- Events without RESET leave memory alone. -/
theorem Undisturbed.readWord {s t : State} (h : Undisturbed s t) (a : Addr) : t.readWord a = s.readWord a :=
  (SameMemory.of_mem h.mem h.ramEpoch).readWord a

/-- What decides whether an access is allowed: the mode, the table's address and the words of memory. -/
theorem State.mayAccess_congr {s t : State} {a : Addr} (params : t.params = s.params) (cctrl : t.cctrl = s.cctrl)
    (ptable : t.ptable = s.ptable) (words : ∀ b, t.readWord b = s.readWord b) (h : s.mayAccess a) : t.mayAccess a := by
  have table : t.table = s.table := by rw [State.table, ptable, State.table]
  unfold State.mayAccess State.ku State.tableInMemory State.allowed at *
  rwa [params, cctrl, table, words]

/-- Settles O38: the fetch gives the word stored, which no event but RESET changes. -/
theorem storeThenFetch : Obligations.StoreThenFetch := by
  intro s t rd rs offset i a hsw access ram address hd noReset idle access'
  have same := State.deliver_undisturbed noReset
  have stored := (exec_sw_ram access ram).symm.trans hsw
  injection stored with stored
  have here : t.deliver.based t.deliver.pc = a := by rw [State.based, same.rbase, same.pc, address, ← stored]; rfl
  have word : t.deliver.readWord a = s.reg rd := by
    rw [same.readWord, ← stored, State.advance_readWord, State.writeWord_readWord_self]
  have allowed : t.deliver.mayAccess a := State.mayAccess_congr same.params same.cctrl same.ptable same.readWord access'
  exact stepRunsWordInMemory t i idle (here.symm ▸ allowed) (.inl (here.symm ▸ ram)) (by rw [here, word, hd])

/-- A step that spares the word at `a` leaves it as it was. -/
theorem Spares.readWord {a : Addr} {x y : State} (h : Spares a x y) : y.readWord a = x.readWord a := by
  have delivered := (State.deliver_undisturbed h.noReset).readWord a
  rcases step_cases h.next with ⟨-, rfl⟩ | ⟨idle, rfl | ⟨w, u, fetch, executed⟩⟩
  · exact delivered
  · exact delivered
  · have fetched := (State.busRead_done (State.checked_done fetch).1).memory.readWord a
    rcases executed with rfl | ⟨i, hd, he⟩
    · exact fetched.trans delivered
    · refine Eq.trans ?_ (fetched.trans delivered)
      rcases (exec_effect he).memory with same | ⟨rd, rs, offset, rfl, same⟩
      · exact same.readWord a
      · exact same.readWord (h.noStore w u rd rs offset idle fetch hd).symm

/-- So does any number of them. -/
theorem Later.readWord {a : Addr} {s t : State} (h : Later a s t) : t.readWord a = s.readWord a := by
  induction h with
  | refl => rfl
  | tail _ spares ih => exact spares.readWord.trans ih

/-- Settles O37: the load gives the word at its address, which the steps between leave as the store left it. -/
theorem storeThenLoad : Obligations.StoreThenLoad := by
  intro s t u v rd rs rd' rs' offset offset' a b hsw access ram later memory access' hlw hrd
  have stored := (exec_sw_ram access ram).symm.trans hsw
  injection stored with stored
  obtain ⟨-, v', hv', completes⟩ := runs_lw_memory (rd := rd') access' memory
  obtain rfl : v' = v := by
    have := hv'.symm.trans hlw
    injection this
  calc v'.reg rd' = u.readWord b := by rw [completes.result, if_neg hrd]
    _ = t.readWord b := later.readWord
    _ = (s.writeWord a (s.reg rd)).readWord b := by rw [← stored]; rfl
    _ = if b = a then s.reg rd else s.readWord b := by
      split
      · next h => rw [h, State.writeWord_readWord_self]
      · next h => exact s.writeWord_readWord_other _ h

end Sys2Proof.Machine

/-! PROOFS. Protection and user mode (spec/20_memory.md R73, R74; spec/60_exceptions.md R290; spec/70_reset_and_hazards.md
R358). -/

namespace Sys2Proof.Machine

/-! ## The protection table -/

/-- The protection bit of an address, its table word and bit as arithmetic (spec/20_memory.md R73). -/
theorem State.allowed_eq (s : State) (a : Addr) :
    s.allowed a =
      (s.readWord (s.table + BitVec.ofNat 20 (a.toNat / 0x8000))).getLsbD (31 - a.toNat / 0x400 % 32) := by
  have a_lt := a.isLt
  have word : (a.extractLsb' 15 5).setWidth 20 = BitVec.ofNat 20 (a.toNat / 0x8000) := by
    apply BitVec.eq_of_toNat_eq
    rw [BitVec.toNat_setWidth, BitVec.extractLsb'_toNat, BitVec.toNat_ofNat, Nat.shiftRight_eq_div_pow]
    omega
  have bit : (a.extractLsb' 10 5).toNat = a.toNat / 0x400 % 32 := by
    rw [BitVec.extractLsb'_toNat, Nat.shiftRight_eq_div_pow]
  rw [State.allowed, word, bit]

/-- Addresses of one block of 1024 are allowed together. -/
theorem State.allowed_congr (s : State) {a b : Addr} (h : a.toNat / 0x400 = b.toNat / 0x400) :
    s.allowed a = s.allowed b := by
  rw [s.allowed_eq, s.allowed_eq, h, show a.toNat / 0x8000 = b.toNat / 0x8000 by omega]

/-- Settles O40: an address within the block has the block's table word and bit. -/
theorem protectionTableBits : Obligations.ProtectionTableBits := by
  intro s a w k hw hk low high
  rw [s.allowed_eq, show a.toNat / 0x8000 = w by omega, show a.toNat / 0x400 % 32 = k by omega, State.table,
    BitVec.setWidth_eq_extractLsb' (by decide)]

/-- A table in RAM lies in RAM or ROM. -/
theorem State.tableInMemory_of_ram {s : State} (h : s.table.toNat + 32 ≤ 0x4000) : s.tableInMemory = true := by
  rw [State.tableInMemory, List.all_eq_true]
  intro w hw
  rw [List.mem_range] at hw
  have ram : (s.table + BitVec.ofNat 20 w).toNat < 0x4000 := by
    rw [BitVec.toNat_add, BitVec.toNat_ofNat]
    omega
  rw [isMemory, regionOf_ram ram]

/-- Settles O41: the table is in RAM, and every word of it is all ones. -/
theorem everythingAllowedAtLaunch : Obligations.EverythingAllowedAtLaunch := by
  intro l s a launch
  refine ⟨State.tableInMemory_of_ram launch.table.2, ?_⟩
  have word_lt : a.toNat / 0x8000 < 32 := by have := a.isLt; omega
  rw [s.allowed_eq, launch.tableOpen _ word_lt, show (0xFFFFFFFF : Word) = BitVec.allOnes 32 by decide,
    BitVec.getLsbD_allOnes, decide_eq_true (by omega)]

/-! ## What a user-mode access can change -/

/-- The block of 1024 addresses that a device's registers lie in (spec/20_memory.md R63). -/
def Region.block : Region → Option Nat
  | .serial .first _ => some (0x70000 / 0x400)
  | .serial .second _ => some (0x71000 / 0x400)
  | .timer _ => some (0x72000 / 0x400)
  | .parallel _ => some (0x73000 / 0x400)
  | .userAcknowledge => some (0x7F000 / 0x400)
  | .ram | .rom | .unassigned => none

/-- A device's region is one of its registers, so an offset has one. -/
theorem block_of_register {α : Type} {register : Option α} {region : α → Region} {m n : Nat}
    (hm : ∀ r, (region r).block = some m) (h : ((register.map region).getD .unassigned).block = some n) :
    register ≠ none ∧ m = n := by
  cases register with
  | none => cases h
  | some r => exact ⟨nofun, Option.some.inj ((hm r).symm.trans h)⟩

/-- Every address of a device lies in the device's block: its registers are fewer than 1024. -/
theorem block_of_regionOf {a : Addr} {n : Nat} (h : (regionOf a).block = some n) : a.toNat / 0x400 = n := by
  unfold regionOf at h
  dsimp only at h
  split_ifs at h with ram rom user
  · cases h
  · cases h
  · cases h; omega
  · split at h
    · obtain ⟨register, rfl⟩ := block_of_register (fun _ => rfl) h
      rw [Ne, serialRegAt_eq_none] at register
      omega
    · obtain ⟨register, rfl⟩ := block_of_register (fun _ => rfl) h
      rw [Ne, serialRegAt_eq_none] at register
      omega
    · obtain ⟨register, rfl⟩ := block_of_register (fun _ => rfl) h
      rw [Ne, timerRegAt_eq_none] at register
      omega
    · obtain ⟨register, rfl⟩ := block_of_register (fun _ => rfl) h
      rw [Ne, parallelRegAt_eq_none] at register
      omega
    · cases h

/-- What a bus access at `a` leaves alone: the words at other addresses, and the devices that `a` is no register of. -/
structure AccessFrame (a : Addr) (s t : State) : Prop where
  words : ∀ b, b ≠ a → t.readWord b = s.readWord b
  serial1 : (∀ r, regionOf a ≠ .serial .first r) → t.serial1 = s.serial1
  serial2 : (∀ r, regionOf a ≠ .serial .second r) → t.serial2 = s.serial2
  timer : (∀ r, regionOf a ≠ .timer r) → t.timer = s.timer
  parallel : (∀ r, regionOf a ≠ .parallel r) → t.parallel = s.parallel
  userPending : regionOf a ≠ .userAcknowledge → t.userPending = s.userPending

/-- Where memory and the devices are as before, an access frame holds at any address. -/
theorem AccessFrame.of_same {s t : State} (memory : SameMemory s t) (devices : SameDevices s t) (a : Addr) :
    AccessFrame a s t :=
  ⟨fun b _ => memory.readWord b, fun _ => devices.serial1, fun _ => devices.serial2, fun _ => devices.timer,
    fun _ => devices.parallel, fun _ => devices.userPending⟩

theorem AccessFrame.trans {a : Addr} {s t u : State} (h : AccessFrame a s t) (k : AccessFrame a t u) :
    AccessFrame a s u :=
  ⟨fun b hb => (k.words b hb).trans (h.words b hb), fun hr => (k.serial1 hr).trans (h.serial1 hr),
    fun hr => (k.serial2 hr).trans (h.serial2 hr), fun hr => (k.timer hr).trans (h.timer hr),
    fun hr => (k.parallel hr).trans (h.parallel hr), fun hr => (k.userPending hr).trans (h.userPending hr)⟩

/-- An access to a serial port changes that port only. -/
theorem AccessFrame.setSerial {a : Addr} {p : SerialPortId} {r : SerialReg} (s : State) (port : SerialPort)
    (h : regionOf a = .serial p r) : AccessFrame a s (s.drawn.setSerial p port) where
  words b _ := by simp
  serial1 hr := by cases p with
    | first => exact absurd h (hr r)
    | second => rfl
  serial2 hr := by cases p with
    | first => rfl
    | second => exact absurd h (hr r)
  timer _ := by simp
  parallel _ := by simp
  userPending _ := by simp

/-- A read of the bus changes the device read only (spec/20_memory.md R63). -/
theorem State.busRead_accessFrame {s t : State} {a : Addr} {v : Word} (h : s.busRead a = .done v t) :
    AccessFrame a s t := by
  have same : AccessFrame a s s := .of_same (.refl s) (.refl s) a
  have drawn : AccessFrame a s s.drawn :=
    .of_same (ReadFrame.drawn s).memory ⟨rfl, rfl, rfl, rfl, rfl, rfl⟩ a
  unfold State.busRead at h
  split at h
  · injection h with _ h; exact h ▸ same
  · injection h with _ h; exact h ▸ same
  · next hr =>
    split at h
    · injection h with _ h; exact h ▸ .setSerial s _ hr
    · cases h
  · injection h with _ h; exact h ▸ drawn
  · injection h with _ h; exact h ▸ drawn
  · cases h
  · cases h

/-- A write of the bus changes the word or the device written only (spec/20_memory.md R63). -/
theorem State.busWrite_accessFrame {s t : State} {a : Addr} {v : Word} (h : s.busWrite a v = .done () t) :
    AccessFrame a s t := by
  unfold State.busWrite at h
  split at h
  · injection h with _ h
    subst h
    exact ⟨fun b hb => s.writeWord_readWord_other v hb, fun _ => rfl, fun _ => rfl, fun _ => rfl, fun _ => rfl,
      fun _ => rfl⟩
  · cases h
  · next hr =>
    split at h
    · injection h with _ h; exact h ▸ .setSerial s _ hr
    · cases h
  · next r hr =>
    split at h
    · injection h with _ h
      subst h
      exact ⟨fun _ _ => rfl, fun _ => rfl, fun _ => rfl, fun k => absurd hr (k r), fun _ => rfl, fun _ => rfl⟩
    · cases h
  · next r hr =>
    split at h
    · injection h with _ h
      subst h
      exact ⟨fun _ _ => rfl, fun _ => rfl, fun _ => rfl, fun _ => rfl, fun k => absurd hr (k r), fun _ => rfl⟩
    · cases h
  · next hr =>
    split at h
    · injection h with _ h
      subst h
      exact ⟨fun _ _ => rfl, fun _ => rfl, fun _ => rfl, fun _ => rfl, fun _ => rfl, fun k => absurd hr k⟩
    · cases h
  · cases h

/-- In user mode an instruction leaves memory and the devices alone, but for one access to an address that the table
allows. -/
theorem Effect.user_accessFrame {i : Instr} {s t : State} (h : Effect i s t) (user : s.ku = false) :
    SameMemory s t ∧ SameDevices s t ∨ ∃ a, s.allowed a = true ∧ AccessFrame a s t := by
  have allowed : ∀ {a : Addr}, s.mayAccess a → s.allowed a = true := fun access =>
    (access.resolve_left (by simp [user])).2
  cases h with
  | load rd rs offset v u hi hu =>
    obtain ⟨read, access⟩ := State.checked_done hu
    exact .inr ⟨_, allowed access, (State.busRead_accessFrame read).trans
      (.of_same (fun k => by simp) (by constructor <;> simp) _)⟩
  | store rd rs offset u hi hu =>
    obtain ⟨write, access⟩ := State.checked_done hu
    exact .inr ⟨_, allowed access, (State.busWrite_accessFrame write).trans
      (.of_same (fun k => by simp) (by constructor <;> simp) _)⟩
  | result rd v => exact .inl ⟨fun k => by simp, by constructor <;> simp⟩
  | jump a => exact .inl ⟨fun k => rfl, by constructor <;> simp⟩
  | link a => exact .inl ⟨fun k => by simp, by constructor <;> simp⟩
  | arithmetic rd hi =>
    have entered := (s.scramble_raised_takes rd .arithmetic).1
    exact .inl ⟨entered.memory, entered.devices⟩
  | loadForbidden rd rs offset hi hk =>
    have entered := (s.scramble_raised_takes rd .generalProtection).1
    exact .inl ⟨entered.memory, entered.devices⟩
  | storeForbidden | unprivileged | breakpoint | syscall =>
    exact .inl ⟨(s.raised_takes _).1.memory, (s.raised_takes _).1.devices⟩
  | writeSpecial sd rs r u hi hk => exact absurd (hk.symm.trans user) (by decide)
  | readSpecial rd ss r hi hk => exact absurd (hk.symm.trans user) (by decide)
  | returned hi hk => exact absurd (hk.symm.trans user) (by decide)

/-- Settles O43: the one access is to an allowed address, so not to the forbidden word, nor to a device in a forbidden
block. -/
theorem userModeCannotChangeForbidden : Obligations.UserModeCannotChangeForbidden := by
  intro i s t user h
  rcases (exec_effect h).user_accessFrame user with ⟨memory, devices⟩ | ⟨a, allowed, frame⟩
  · exact ⟨fun b _ => memory.readWord b, fun _ => devices.serial1, fun _ => devices.serial2, fun _ => devices.timer,
      fun _ => devices.parallel, fun _ => devices.userPending⟩
  · have elsewhere : ∀ {b : Addr} {region : Region}, s.allowed b = false → region.block = some (b.toNat / 0x400) →
        regionOf a ≠ region := by
      rintro b region forbidden hb rfl
      rw [s.allowed_congr (block_of_regionOf hb), forbidden] at allowed
      cases allowed
    exact ⟨fun b forbidden => frame.words b fun e => by simp [← e, forbidden] at allowed,
      fun forbidden => frame.serial1 fun r => elsewhere forbidden rfl,
      fun forbidden => frame.serial2 fun r => elsewhere forbidden rfl,
      fun forbidden => frame.timer fun r => elsewhere forbidden rfl,
      fun forbidden => frame.parallel fun r => elsewhere forbidden rfl,
      fun forbidden => frame.userPending (elsewhere forbidden rfl)⟩

end Sys2Proof.Machine

/-! PROOFS. User mode cannot read forbidden memory (spec/60_exceptions.md R290; spec/20_memory.md R73, R74). An instruction
is run from a state and from the same state with another memory: the outcomes are alike but for that memory, where both
memories give the same word at the address accessed. -/

namespace Sys2Proof.Machine

/-- `s` with the memory `m`. -/
def State.withMem (s : State) (m : Memory) : State := { s with mem := m }

/-- An outcome with the memory `m` in its next state. -/
def resultWithMem (m : Memory) : Result → Result
  | .next s => .next (s.withMem m)
  | .fault f => .fault f
  | .refused r => .refused r

/-- The end of an access with the memory `m` in its state. -/
def accessWithMem {α : Type} (m : Memory) : Access α → Access α
  | .done v s => .done v (s.withMem m)
  | .protectionFault => .protectionFault
  | .fault f => .fault f
  | .refused r => .refused r

/-! ## Operations that do not look at memory -/

@[simp] theorem State.withMem_params (s : State) (m : Memory) : (s.withMem m).params = s.params := rfl
@[simp] theorem State.withMem_free (s : State) (m : Memory) : (s.withMem m).free = s.free := rfl
@[simp] theorem State.withMem_drawn (s : State) (m : Memory) : (s.withMem m).drawn = s.drawn.withMem m := rfl
@[simp] theorem State.withMem_serial (s : State) (m : Memory) (p : SerialPortId) :
    (s.withMem m).serial p = s.serial p := by cases p <;> rfl
@[simp] theorem State.withMem_timer (s : State) (m : Memory) : (s.withMem m).timer = s.timer := rfl
@[simp] theorem State.withMem_parallel (s : State) (m : Memory) : (s.withMem m).parallel = s.parallel := rfl

theorem State.setReg_withMem (s : State) (m : Memory) (r : RegNum) (v : Word) :
    (s.withMem m).setReg r v = (s.setReg r v).withMem m := by
  unfold State.setReg
  split <;> rfl

theorem State.setSerial_withMem (s : State) (m : Memory) (p : SerialPortId) (port : SerialPort) :
    (s.withMem m).setSerial p port = (s.setSerial p port).withMem m := by
  cases p <;> rfl

theorem State.retire_withMem (s : State) (m : Memory) (rd : RegNum) (v : Word) :
    (s.withMem m).retire rd v = resultWithMem m (s.retire rd v) := by
  rw [State.retire, State.setReg_withMem]
  rfl

theorem State.scramble_raised_withMem (s : State) (m : Memory) (rd : RegNum) (c : InternalCause) :
    ((s.withMem m).scramble rd).raised c = ((s.scramble rd).raised c).withMem m := by
  have scrambled : (s.withMem m).scramble rd = (s.scramble rd).withMem m := s.drawn.setReg_withMem m rd s.free
  rw [scrambled]
  rfl

theorem arithmetic_withMem (rd : RegNum) (r : Option Word) (s : State) (m : Memory) :
    arithmetic rd r (s.withMem m) = resultWithMem m (arithmetic rd r s) := by
  cases r with
  | some v => exact s.retire_withMem m rd v
  | none => exact congrArg Host.Outcome.next (s.scramble_raised_withMem m rd .arithmetic)

theorem branchIf_withMem (taken : Bool) (offset : BitVec 20) (s : State) (m : Memory) :
    branchIf taken offset (s.withMem m) = resultWithMem m (branchIf taken offset s) := by
  cases taken <;> rfl

theorem State.link_withMem (s : State) (m : Memory) (v : Word) (a : Addr) :
    .next (((s.withMem m).setReg 15 v).jump a) = resultWithMem m (.next ((s.setReg 15 v).jump a)) := by
  rw [State.setReg_withMem]
  rfl

/-- An instruction that makes no access does not look at memory. In user mode the privileged ones do not run. -/
theorem exec_withMem {i : Instr} {s : State} (m : Memory) (user : s.ku = false) (noLoad : ∀ rd rs o, i ≠ .lw rd rs o)
    (noStore : ∀ rd rs o, i ≠ .sw rd rs o) : exec i (s.withMem m) = resultWithMem m (exec i s) := by
  have privileged (run : State → Result) :
      (s.withMem m).privileged run = resultWithMem m (s.privileged run) := by
    rw [State.privileged_user user, State.privileged_user (s := s.withMem m) user]
    rfl
  cases i with
  | lw rd rs o => exact absurd rfl (noLoad rd rs o)
  | sw rd rs o => exact absurd rfl (noStore rd rs o)
  | movgs | movsg | rfe => simp only [exec, execMovgs, execMovsg, execRfe, privileged]
  | brk | syscall | j | jr => rfl
  | jal a => exact s.link_withMem m _ a
  | jalr rs =>
    simp only [exec, execJalr]
    split
    · rfl
    · exact s.link_withMem m _ _
  | beqz | bnez => exact branchIf_withMem _ _ s m
  | add | addi | addu | addui | sub | subi | subu | subui | mult | multi | multu | multui
  | div | divi | divu | divui | rem | remi | remu | remui => exact arithmetic_withMem _ _ s m
  | _ => exact s.retire_withMem m _ _

/-! ## Accesses -/

/-- A read of the bus, where both memories give the same word at its address. -/
theorem State.busRead_withMem {s : State} {m : Memory} {a : Addr} (word : (s.withMem m).readWord a = s.readWord a) :
    (s.withMem m).busRead a = accessWithMem m (s.busRead a) := by
  unfold State.busRead
  cases regionOf a with
  | ram | rom => exact congrArg (Access.done · (s.withMem m)) word
  | serial p r =>
    simp only [withMem_serial, withMem_params, withMem_free, withMem_drawn, State.setSerial_withMem]
    cases (s.serial p).loadReg s.params.serial r s.free <;> rfl
  | timer | parallel | userAcknowledge | unassigned => rfl

/-- A write of the bus outside RAM. -/
theorem State.busWrite_withMem (s : State) (m : Memory) {a : Addr} (v : Word) (notRam : regionOf a ≠ .ram) :
    (s.withMem m).busWrite a v = accessWithMem m (s.busWrite a v) := by
  unfold State.busWrite
  cases hr : regionOf a with
  | ram => exact absurd hr notRam
  | rom | unassigned => rfl
  | serial p r =>
    simp only [withMem_serial, withMem_params, withMem_free, withMem_drawn, State.setSerial_withMem]
    cases (s.serial p).storeReg s.params.serial r v s.free <;> rfl
  | timer r =>
    simp only [withMem_timer, withMem_params]
    cases s.timer.storeReg s.params.timer r v <;> rfl
  | parallel r =>
    simp only [withMem_parallel, withMem_params]
    cases s.parallel.storeReg s.params.parallel r v <;> rfl
  | userAcknowledge =>
    dsimp only
    split <;> rfl

/-- The protection bits, where both memories give the same table. -/
theorem State.allowed_withMem {s : State} {m : Memory}
    (table : ∀ w, w < 32 →
      (s.withMem m).readWord (s.table + BitVec.ofNat 20 w) = s.readWord (s.table + BitVec.ofNat 20 w))
    (a : Addr) : (s.withMem m).allowed a = s.allowed a := by
  have word_lt : a.toNat / 0x8000 < 32 := by have := a.isLt; omega
  rw [State.allowed_eq, State.allowed_eq, ← table _ word_lt]
  rfl

/-- An access under the protection check, where both memories give the same table, and the accesses agree where the table
lets them through. -/
theorem State.checked_withMem {α : Type} {s : State} {m : Memory} {a : Addr} {go go' : Access α} (user : s.ku = false)
    (bits : ∀ a, (s.withMem m).allowed a = s.allowed a) (agree : s.mayAccess a → go' = accessWithMem m go) :
    (s.withMem m).checked a go' = accessWithMem m (s.checked a go) := by
  cases table : s.tableInMemory with
  | false =>
    rw [s.checked_table_outside a go user table, State.checked_table_outside (s.withMem m) a go' user table]
    rfl
  | true =>
    cases bit : s.allowed a with
    | false =>
      rw [s.checked_forbidden a go user table bit,
        State.checked_forbidden (s.withMem m) a go' user table ((bits a).trans bit)]
      rfl
    | true =>
      rw [s.checked_open a go (.inr ⟨table, bit⟩),
        State.checked_open (s.withMem m) a go' (.inr ⟨table, (bits a).trans bit⟩), agree (.inr ⟨table, bit⟩)]

/-- A load, where both memories give the same table and the same word at every allowed address. -/
theorem exec_lw_withMem {s : State} {m : Memory} (rd rs : RegNum) (offset : BitVec 20) (user : s.ku = false)
    (bits : ∀ a, (s.withMem m).allowed a = s.allowed a)
    (words : ∀ a, s.allowed a = true → (s.withMem m).readWord a = s.readWord a) :
    exec (.lw rd rs offset) (s.withMem m) = resultWithMem m (exec (.lw rd rs offset) s) := by
  have access : (s.withMem m).memRead (effectiveAddress (s.reg rs) offset) = accessWithMem m (s.memRead _) :=
    State.checked_withMem user bits fun h => State.busRead_withMem (words _ (h.resolve_left (by simp [user])).2)
  change execLw rd rs offset (s.withMem m) = resultWithMem m (execLw rd rs offset s)
  unfold execLw
  rw [show (s.withMem m).reg rs = s.reg rs from rfl, access]
  cases s.memRead (effectiveAddress (s.reg rs) offset) with
  | done v u => exact u.retire_withMem m rd v
  | protectionFault => exact congrArg Host.Outcome.next (s.scramble_raised_withMem m rd _)
  | fault f => rfl
  | refused r => rfl

/-- A store that does not reach RAM, where both memories give the same table. -/
theorem exec_sw_withMem {s : State} {m : Memory} (rd rs : RegNum) (offset : BitVec 20) (user : s.ku = false)
    (bits : ∀ a, (s.withMem m).allowed a = s.allowed a)
    (notRam : s.mayAccess (s.accessed rs offset) → ¬(s.accessed rs offset).toNat < 0x4000) :
    exec (.sw rd rs offset) (s.withMem m) = resultWithMem m (exec (.sw rd rs offset) s) := by
  have access : (s.withMem m).memWrite (effectiveAddress (s.reg rs) offset) (s.reg rd) =
      accessWithMem m (s.memWrite _ (s.reg rd)) :=
    State.checked_withMem user bits fun h => s.busWrite_withMem m _ fun hr => by
      rcases regionOf_memory (.inl hr) with ram | rom
      · exact notRam h ram
      · rw [regionOf_rom rom] at hr
        cases hr
  change execSw rd rs offset (s.withMem m) = resultWithMem m (execSw rd rs offset s)
  unfold execSw
  rw [show (s.withMem m).reg rs = s.reg rs from rfl, show (s.withMem m).reg rd = s.reg rd from rfl, access]
  cases s.memWrite (effectiveAddress (s.reg rs) offset) (s.reg rd) <;> rfl

/-! ## Outcomes -/

/-- Outcomes that differ in a memory that the instruction did not change are the same in the words that were. -/
theorem SameOutcome.of_withMem {shown : Addr → Prop} {s : State} {m : Memory}
    (words : ∀ a, shown a → (s.withMem m).readWord a = s.readWord a) {r : Result}
    (kept : ∀ u, r = .next u → u.ramEpoch = s.ramEpoch ∧ u.mem = s.mem) : SameOutcome shown r (resultWithMem m r) := by
  cases r with
  | next u =>
    obtain ⟨epoch, mem⟩ := kept u rfl
    refine ⟨rfl, fun a ha => ?_⟩
    have other : SameMemory (s.withMem m) (u.withMem m) := .of_mem rfl epoch
    rw [other.readWord, words a ha, (SameMemory.of_mem mem epoch).readWord]
  | fault f => exact rfl
  | refused r => exact rfl

/-- A store to RAM writes the same word into both memories. -/
theorem SameOutcome.of_store {shown : Addr → Prop} {s : State} {m : Memory}
    (words : ∀ a, shown a → (s.withMem m).readWord a = s.readWord a) (a : Addr) (v : Word) :
    SameOutcome shown (.next (s.writeWord a v).advance) (.next ((s.withMem m).writeWord a v).advance) := by
  refine ⟨rfl, fun b hb => ?_⟩
  rw [State.advance_readWord, State.advance_readWord]
  by_cases e : b = a
  · rw [e, State.writeWord_readWord_self, State.writeWord_readWord_self]
  · rw [State.writeWord_readWord_other _ _ e, State.writeWord_readWord_other _ _ e, words b hb]

/-- Settles O44: a store to RAM writes both memories alike; every other instruction leaves them as they were and ends
alike. -/
theorem userModeCannotReadForbidden : Obligations.UserModeCannotReadForbidden := by
  intro i s t user agree
  obtain ⟨m, rfl⟩ : ∃ m, t = s.withMem m := ⟨t.mem, agree.rest⟩
  have bits := State.allowed_withMem agree.table
  by_cases store : ∃ rd rs offset, i = .sw rd rs offset ∧ s.mayAccess (s.accessed rs offset) ∧
      (s.accessed rs offset).toNat < 0x4000
  · obtain ⟨rd, rs, offset, rfl, access, ram⟩ := store
    have access' : (s.withMem m).mayAccess (s.accessed rs offset) := access.imp_right fun h => ⟨h.1, (bits _).trans h.2⟩
    rw [exec_sw_ram access ram, exec_sw_ram (s := s.withMem m) access' ram]
    exact .of_store agree.words _ _
  · have alike : exec i (s.withMem m) = resultWithMem m (exec i s) := by
      by_cases load : ∃ rd rs offset, i = .lw rd rs offset
      · obtain ⟨rd, rs, offset, rfl⟩ := load
        exact exec_lw_withMem rd rs offset user bits agree.words
      · by_cases store' : ∃ rd rs offset, i = .sw rd rs offset
        · obtain ⟨rd, rs, offset, rfl⟩ := store'
          exact exec_sw_withMem rd rs offset user bits fun access ram => store ⟨rd, rs, offset, rfl, access, ram⟩
        · exact exec_withMem m user (fun rd rs o hi => load ⟨rd, rs, o, hi⟩) fun rd rs o hi => store' ⟨rd, rs, o, hi⟩
    rw [alike]
    refine .of_withMem agree.words fun u hu => ?_
    obtain ⟨epoch, mem⟩ := (exec_effect hu).mem
    exact ⟨epoch, mem.resolve_right fun ⟨rd, rs, offset, hi, access, ram, _⟩ => store ⟨rd, rs, offset, hi, access, ram⟩⟩

end Sys2Proof.Machine

/-! PROOFS. What every step keeps, and reset (spec/10_state.md R20, R21, R53; spec/20_memory.md R63;
spec/60_exceptions.md R277, R336; spec/70_reset_and_hazards.md R350, R351). -/

namespace Sys2Proof.Machine

/-! ## The invariant, operation by operation -/

/-- The invariant speaks of five parts of the state. -/
theorem State.Inv.congr {s t : State} (h : s.Inv) (mem : t.mem = s.mem) (base : t.rbase = s.rbase)
    (zero : t.regs[0] = s.regs[0]) (estat : t.estat = s.estat)
    (prescaler : 1 ≤ t.timer.prescaler.toNat ∧ t.timer.prescaler.toNat ≤ 1302) : t.Inv where
  canonical := mem ▸ h.canonical
  mapped := mem ▸ h.mapped
  base := base.trans h.base
  zero := zero.trans h.zero
  causes := estat ▸ h.causes
  oneCause := estat ▸ h.oneCause
  prescaler := prescaler

/-- No write reaches the slot of `$0`. -/
theorem State.setReg_regs_zero (s : State) (r : RegNum) (v : Word) : (s.setReg r v).regs[0] = s.regs[0] := by
  unfold State.setReg
  split
  · rfl
  · next hr =>
    have : r.toNat ≠ 0 := fun e => hr (BitVec.eq_of_toNat_eq e)
    exact Vector.getElem_set_ne r.isLt (by decide) this

theorem State.setReg_inv {s : State} (h : s.Inv) (r : RegNum) (v : Word) : (s.setReg r v).Inv :=
  h.congr (by simp) (by simp) (s.setReg_regs_zero r v) (by simp) (by simpa using h.prescaler)

theorem State.jump_inv {s : State} (h : s.Inv) (a : Addr) : (s.jump a).Inv := h.congr rfl rfl rfl rfl h.prescaler

theorem State.advance_inv {s : State} (h : s.Inv) : s.advance.Inv := h.congr rfl rfl rfl rfl h.prescaler

theorem State.drawn_inv {s : State} (h : s.Inv) : s.drawn.Inv := h.congr rfl rfl rfl rfl h.prescaler

/-- An entry writes a cause word with at most one internal exception (spec/60_exceptions.md R277). -/
theorem State.enter_inv {s : State} (h : s.Inv) (c : Option InternalCause) (ra : Addr) : (s.enter c ra).Inv where
  canonical := h.canonical
  mapped := h.mapped
  base := h.base
  zero := h.zero
  causes := ⟨(s.causeWord_spec c).low, (s.causeWord_spec c).high⟩
  oneCause j k hj hk := by
    rw [State.enter_estat, (s.causeWord_spec c).internal, decide_eq_true_eq] at hj hk
    exact Option.some.inj (hj.symm.trans hk)
  prescaler := h.prescaler

theorem State.scramble_inv {s : State} (h : s.Inv) (rd : RegNum) : (s.scramble rd).Inv :=
  State.setReg_inv (State.drawn_inv h) rd s.free

theorem State.returned_inv {s : State} (h : s.Inv) : s.returned.Inv :=
  have left : State.Inv { s with cctrl := s.params.cctrl.leave s.cctrl } := h.congr rfl rfl rfl rfl h.prescaler
  State.jump_inv (State.setReg_inv left 13 s.ers) _

/-- A read of the bus keeps the invariant. -/
theorem ReadFrame.inv {s t : State} (frame : ReadFrame s t) (h : s.Inv) : t.Inv :=
  h.congr frame.mem frame.special.rbase (by rw [frame.regs]) frame.special.estat (by rw [frame.timer]; exact h.prescaler)

/-- A write of the bus keeps the invariant: it lists words of RAM only (spec/20_memory.md R63). -/
theorem WriteFrame.inv {a : Addr} {v : Word} {s t : State} (frame : WriteFrame a v s t) (h : s.Inv) : t.Inv where
  canonical := by
    rcases frame.mem with mem | ⟨-, mem⟩
    · rw [mem]; exact h.canonical
    · rw [mem]; exact Memory.writeWord_wf a v h.canonical
  mapped c hc := by
    rcases frame.mem with mem | ⟨ram, mem⟩
    · exact h.mapped c (mem ▸ hc)
    · rcases Memory.mem_writeWord (mem ▸ hc) with written | before
      · exact .inl (by omega)
      · exact h.mapped c before
  base := frame.special.rbase.trans h.base
  zero := by rw [frame.regs]; exact h.zero
  causes := frame.special.estat ▸ h.causes
  oneCause := frame.special.estat ▸ h.oneCause
  prescaler := by rw [frame.prescaler]; exact h.prescaler

/-- A write of a special register keeps the invariant: `$rbase` takes 0 only, and `$estat` is not written. -/
theorem State.writeSpr_inv {s u : State} {r : Spr} {v : Word} (h : s.Inv) (hu : s.writeSpr r v = .ok u) : u.Inv := by
  rcases State.writeSpr_ok hu with ⟨-, rfl⟩ | ⟨-, rfl⟩ | ⟨-, rfl⟩ | ⟨-, rfl⟩ | ⟨-, rfl⟩ | ⟨-, -, rfl⟩
  case inr.inr.inr.inr.inr => exact h.congr rfl h.base.symm rfl rfl h.prescaler
  all_goals exact h.congr rfl rfl rfl rfl h.prescaler

/-- A read of a special register keeps the invariant. -/
theorem State.readSpr_inv {s : State} (h : s.Inv) (r : Spr) : (s.readSpr r).2.Inv := by
  obtain ⟨ic, cc, d, e⟩ := s.readSpr_frame r
  exact h.congr (by rw [e]) (by rw [e]) (by rw [e]) (by rw [e]) (by rw [e]; exact h.prescaler)

/-- Every instruction keeps the invariant. -/
theorem Effect.inv {i : Instr} {s t : State} (h : Effect i s t) (hs : s.Inv) : t.Inv := by
  cases h with
  | result rd v => exact State.advance_inv (State.setReg_inv hs rd v)
  | jump a => exact State.jump_inv hs a
  | link a => exact State.jump_inv (State.setReg_inv hs _ _) a
  | load rd rs offset v u hi hu =>
    exact State.advance_inv (State.setReg_inv ((State.busRead_done (State.checked_done hu).1).inv hs) rd v)
  | store rd rs offset u hi hu => exact State.advance_inv ((State.busWrite_done (State.checked_done hu).1).inv hs)
  | arithmetic | loadForbidden => exact State.enter_inv (State.scramble_inv hs _) _ _
  | storeForbidden | unprivileged | breakpoint | syscall => exact State.enter_inv hs _ _
  | writeSpecial sd rs r u hi hk hr hu => exact State.advance_inv (State.writeSpr_inv hs hu)
  | readSpecial rd ss r hi hk hr => exact State.advance_inv (State.setReg_inv (State.readSpr_inv hs r) _ _)
  | returned hi hk => exact State.returned_inv hs

/-! ## Reset -/

/-- The state after reset has the invariant, whatever the parameters. -/
theorem State.resetWith_inv (p : Params) : (State.resetWith p).Inv where
  canonical := rfl
  mapped c hc := nomatch hc
  base := rfl
  zero := rfl
  causes := by rw [show (State.resetWith p).estat = 0 from rfl]; decide
  oneCause j k hj := by rw [show (State.resetWith p).estat = 0#32 from rfl, BitVec.getLsbD_zero] at hj; cases hj
  prescaler := prescalerStart_bounds

/-- Settles O46: every reset state has the invariant. -/
theorem invariantAtReset : Obligations.InvariantAtReset := ⟨State.resetWith_inv _, State.resetWith_inv⟩

/-- RESET keeps the invariant: it drops the cells of RAM. -/
theorem State.pressReset_inv {s : State} (h : s.Inv) : s.pressReset.Inv :=
  have reset := State.resetWith_inv s.params
  { canonical := Memory.romOnly_wf h.canonical
    mapped := fun c hc => h.mapped c (List.mem_of_mem_filter hc)
    base := reset.base
    zero := reset.zero
    causes := reset.causes
    oneCause := reset.oneCause
    prescaler := reset.prescaler }

/-! ## The step -/

/-- Every device event keeps the invariant. -/
theorem State.apply_inv (s : State) (e : DeviceEvent) (h : s.Inv) : (s.apply e).Inv := by
  by_cases reset : e = .resetButton
  · subst reset
    exact State.pressReset_inv h
  · have same := s.apply_undisturbed reset
    exact h.congr same.mem same.rbase (by rw [same.regs]) same.estat (State.apply_prescaler e h.prescaler)

/-- So does the delivery of those of a boundary. -/
theorem State.deliver_inv {s : State} (h : s.Inv) : s.deliver.Inv :=
  State.deliver_induction (P := State.Inv) (fun _ _ h => h.congr rfl rfl rfl rfl h.prescaler) State.apply_inv h

/-- No instruction changes the parameters or what the environment is still to do. -/
theorem Effect.params_script {i : Instr} {s t : State} (h : Effect i s t) :
    t.params = s.params ∧ t.script = s.script := by
  cases h with
  | load rd rs offset v u hi hu =>
    have frame := State.busRead_done (State.checked_done hu).1
    exact ⟨by simp [frame.special.params], by simp [frame.script]⟩
  | store rd rs offset u hi hu =>
    have frame := State.busWrite_done (State.checked_done hu).1
    exact ⟨frame.special.params, frame.script⟩
  | writeSpecial sd rs r u hi hk hr hu =>
    rcases State.writeSpr_ok hu with ⟨-, rfl⟩ | ⟨-, rfl⟩ | ⟨-, rfl⟩ | ⟨-, rfl⟩ | ⟨-, rfl⟩ | ⟨-, -, rfl⟩ <;>
      exact ⟨rfl, rfl⟩
  | readSpecial rd ss r hi hk hr =>
    obtain ⟨ic, cc, d, e⟩ := s.readSpr_frame r
    exact ⟨by simp [e], by simp [e]⟩
  | result | jump | link => exact ⟨by simp, by simp⟩
  | arithmetic | loadForbidden => exact ⟨by simp [State.raised, State.scramble], by simp [State.raised, State.scramble]⟩
  | storeForbidden | unprivileged | breakpoint | syscall => exact ⟨rfl, rfl⟩
  | returned hi hk => exact ⟨by simp [State.returned], by simp [State.returned]⟩

/-- A step keeps the parameters and takes the head of the script. -/
theorem step_params_script {s t : State} (h : step s = .next t) : t.params = s.params ∧ t.script = s.script.tail := by
  rw [← s.deliver_params, ← s.deliver_script]
  rcases step_cases h with ⟨-, rfl⟩ | ⟨-, rfl | ⟨w, u, fetch, executed⟩⟩
  · exact ⟨rfl, rfl⟩
  · exact ⟨rfl, rfl⟩
  · have frame := State.busRead_done (State.checked_done fetch).1
    rw [← frame.special.params, ← frame.script]
    rcases executed with rfl | ⟨i, -, he⟩
    · exact ⟨rfl, rfl⟩
    · exact (exec_effect he).params_script

/-- Settles O47: the delivery, the fetch and what is executed each keep the invariant. -/
theorem everyStepKeepsInvariant : Obligations.EveryStepKeepsInvariant := by
  intro s t inv h
  refine ⟨?_, (step_params_script h).1⟩
  have delivered := State.deliver_inv inv
  rcases step_cases h with ⟨-, rfl⟩ | ⟨-, rfl | ⟨w, u, fetch, executed⟩⟩
  · exact State.enter_inv delivered _ _
  · exact State.enter_inv delivered _ _
  · have fetched := (State.busRead_done (State.checked_done fetch).1).inv delivered
    rcases executed with rfl | ⟨i, -, he⟩
    · exact State.enter_inv fetched _ _
    · exact (exec_effect he).inv fetched

/-! ## What reset leaves -/

/-- `$cctrl` after reset: kernel mode and interrupts disabled (spec/10_state.md R53). -/
theorem State.resetWith_flags (p : Params) : (State.resetWith p).ku = true ∧ (State.resetWith p).ie = false := by
  obtain ⟨h1, h2, h3, h4, h5, h6⟩ := p.cctrl.positions
  constructor
  · change (p.cctrl.pack _ _ _ _ _).getLsbD p.cctrl.ku = true
    rw [CctrlLayout.pack, setFlag_cctrl, if_pos rfl]
  · change (p.cctrl.pack _ _ _ _ _).getLsbD p.cctrl.ie = false
    rw [CctrlLayout.pack, setFlag_cctrl, if_neg h5, setFlag_cctrl, if_neg h4, setFlag_cctrl, if_pos rfl]

/-- A key of ROM reads the same with the cells of RAM dropped. -/
theorem Memory.romOnly_read (m : Memory) {k : Nat} (h : 0x80000 ≤ k / 4) : m.romOnly.read k = m.read k := by
  induction m with
  | nil => rfl
  | cons c rest ih =>
    obtain ⟨k', b⟩ := c
    have ih : Memory.read (rest.filter fun c => decide (0x80000 ≤ c.1 / 4)) k = Memory.read rest k := ih
    rw [Memory.romOnly, List.filter_cons]
    split
    · simp only [Memory.read, ih]
    · next dropped =>
      have other : k' ≠ k := fun e => dropped (by simpa [e] using h)
      simp only [Memory.read, ih, if_neg other]

/-- RESET keeps the bytes of ROM (spec/10_state.md R53). -/
theorem State.pressReset_readByte (s : State) {k : Nat} (h : 0x80000 ≤ k / 4 ∧ k / 4 < 0x88000) :
    s.pressReset.readByte k = s.readByte k := by
  have unlisted : ∀ epoch, unlistedByte epoch k = unlistedByte s.ramEpoch k := fun epoch => by
    simp only [unlistedByte, if_pos h]
  have listed : s.pressReset.mem.read k = s.mem.read k := s.mem.romOnly_read h.1
  unfold State.readByte
  rw [listed, unlisted]

/-- RESET keeps the words of ROM. -/
theorem State.pressReset_readWord (s : State) {a : Addr} (h : 0x80000 ≤ a.toNat ∧ a.toNat < 0x88000) :
    s.pressReset.readWord a = s.readWord a := by
  simp only [State.readWord]
  rw [s.pressReset_readByte (by omega), s.pressReset_readByte (by omega), s.pressReset_readByte (by omega),
    s.pressReset_readByte (by omega)]

/-- Settles O48: both kinds of reset leave what `State.resetWith` has; the button keeps ROM, the switches and the buttons
also. -/
theorem resetValues : Obligations.ResetValues := by
  refine ⟨rfl, fun p s t ht => ?_⟩
  have hex : ∀ q : Params, (ParallelPort.reset q.parallel).control.getLsbD q.parallel.hex = true := fun q => by
    rw [ParallelPort.reset, setFlag_flag, if_pos rfl]
  have quiet : ∀ b : Fin 11, SerialPort.reset.control.getLsbD b = false := fun b => BitVec.getLsbD_zero
  have kept : t = s.apply .resetButton → t.params = s.params ∧
      (∀ a : Addr, 0x80000 ≤ a.toNat → a.toNat < 0x88000 → t.readWord a = s.readWord a) ∧
      t.parallel.switches = s.parallel.switches ∧ t.parallel.buttons = s.parallel.buttons := by
    rintro rfl
    exact ⟨rfl, fun a low high => s.pressReset_readWord ⟨low, high⟩, rfl, rfl⟩
  rcases ht with rfl | rfl
  · obtain ⟨ku, ie⟩ := State.resetWith_flags p
    exact ⟨rfl, ku, ie, rfl, rfl, rfl, rfl, fun q => by cases q <;> exact ⟨quiet _, quiet _, quiet _⟩, hex p, kept⟩
  · obtain ⟨ku, ie⟩ := State.resetWith_flags s.params
    exact ⟨rfl, ku, ie, rfl, rfl, rfl, rfl, fun q => by cases q <;> exact ⟨quiet _, quiet _, quiet _⟩, hex s.params,
      kept⟩

/-- Settles O49: the rules of reads after writes. -/
theorem registerFile : Obligations.RegisterFile := fun s r _ v =>
  ⟨s.reg_zero, s.setReg_zero v, s.setReg_reg_self r v, s.setReg_reg_other v⟩

/-! ## A run -/

/-- After `n` steps `n` entries of the script are taken. -/
theorem Steps.script {n : Nat} {s t : State} (h : Steps n s t) : t.script = s.script.drop n := by
  induction n generalizing s with
  | zero => rw [show t = s from h, List.drop_zero]
  | succ n ih =>
    obtain ⟨u, first, rest⟩ := h
    rw [ih rest, (step_params_script first).2, List.drop_tail]

end Sys2Proof.Machine

/-! PROOFS. Arithmetic (spec/40_arithmetic.md R131 to R157), jumps that link and branches (spec/43_branch.md R213 to
R216). -/

namespace Sys2Proof.Machine

/-! ## The end of an arithmetic instruction -/

/-- An arithmetic instruction completes with its result, or takes the Arithmetic Exception where it has none
(spec/40_arithmetic.md R156, R157). -/
theorem runs_arithmetic {w : Word} {i : Instr} {s : State} {rd : RegNum} {r : Option Word} (hd : decode w = .instr i)
    (he : exec i s = arithmetic rd r s) :
    (∀ v, r = some v → Runs w i s (Completes rd v)) ∧
      (r = none → Runs w i s (TakesSparing rd .arithmetic (s.pc + 1))) := by
  constructor
  · rintro v rfl
    exact runs_of_exec_eq_retire hd he
  · rintro rfl
    exact ⟨hd, _, he, s.scramble_raised_takes rd _⟩

/-- A signed result that fits is exact (spec/40_arithmetic.md R153). -/
theorem signedResult_of_fits {r : Int} (h : -2 ^ 31 ≤ r ∧ r ≤ 2 ^ 31 - 1) :
    signedResult r = some (BitVec.ofInt 32 r) ∧ (BitVec.ofInt 32 r).toInt = r := by
  refine ⟨if_neg (by omega), ?_⟩
  rw [BitVec.toInt_ofInt, Int.bmod_eq_of_le (by omega) (by omega)]

/-- A signed result that does not fit is an overflow (spec/40_arithmetic.md R153). -/
theorem signedResult_of_not_fits {r : Int} (h : r < -2 ^ 31 ∨ 2 ^ 31 - 1 < r) : signedResult r = none :=
  if_pos (by omega)

/-- An unsigned result that fits is exact (spec/40_arithmetic.md R154). -/
theorem unsignedResult_of_fits {r : Int} (h : 0 ≤ r ∧ r ≤ 2 ^ 32 - 1) :
    unsignedResult r = some (BitVec.ofInt 32 r) ∧ ((BitVec.ofInt 32 r).toNat : Int) = r := by
  refine ⟨if_neg (by omega), ?_⟩
  rw [BitVec.toNat_ofInt]
  omega

/-- An unsigned result that does not fit is an overflow or a borrow (spec/40_arithmetic.md R154, decision D30). -/
theorem unsignedResult_of_not_fits {r : Int} (h : r < 0 ∨ 2 ^ 32 - 1 < r) : unsignedResult r = none :=
  if_pos (by omega)

/-- An instruction that ends with a signed result. -/
theorem signedArithmetic_of_exec {w : Word} {i : Instr} {s : State} {rd : RegNum} {r : Int} (hd : decode w = .instr i)
    (he : exec i s = arithmetic rd (signedResult r) s) : SignedArithmetic w i rd r s :=
  ⟨fun fits => ⟨_, (signedResult_of_fits fits).2, (runs_arithmetic hd he).1 _ (signedResult_of_fits fits).1⟩,
    fun overflow => (runs_arithmetic hd he).2 (signedResult_of_not_fits overflow)⟩

/-- An instruction that ends with an unsigned result. -/
theorem unsignedArithmetic_of_exec {w : Word} {i : Instr} {s : State} {rd : RegNum} {r : Int} (hd : decode w = .instr i)
    (he : exec i s = arithmetic rd (unsignedResult r) s) : UnsignedArithmetic w i rd r s :=
  ⟨fun fits => ⟨_, (unsignedResult_of_fits fits).2, (runs_arithmetic hd he).1 _ (unsignedResult_of_fits fits).1⟩,
    fun overflow => (runs_arithmetic hd he).2 (unsignedResult_of_not_fits overflow)⟩

/-- An instruction that ends with a result where its divisor is not 0 (spec/40_arithmetic.md R155). -/
theorem divides_of_exec {w : Word} {i : Instr} {s : State} {rd : RegNum} {b v : Word} (hd : decode w = .instr i)
    (he : exec i s = arithmetic rd (if b = 0 then none else some v) s) : Divides w i rd b v s :=
  ⟨fun nonzero => (runs_arithmetic hd he).1 v (if_neg nonzero), fun zero => (runs_arithmetic hd he).2 (if_pos zero)⟩

/-- The register form under opcode 0000 with a given `Func`. -/
theorem decode_aluR {rd rs rt : RegNum} {func : BitVec 4} {i : Instr} (hi : decodeAluR func.toNat rd rs rt = i) :
    decode (0x0#4 ++ rd ++ rs ++ func ++ 0#12 ++ rt) = .instr i :=
  hi ▸ decode_rType_alu rd rs func rt

/-- The immediate form under opcode 0001 with a given `Func`. -/
theorem decode_aluI {rd rs : RegNum} {func : BitVec 4} {imm : BitVec 16} {i : Instr}
    (hi : decodeAluI func.toNat rd rs imm = i) : decode (0x1#4 ++ rd ++ rs ++ func ++ imm) = .instr i :=
  hi ▸ decode_iType_alu rd rs func imm

/-! ## Addition, subtraction and multiplication -/

/-- Settles O19: each instruction ends with the signed result of its operation. -/
theorem signedAddSubtractMultiply : Obligations.SignedAddSubtractMultiply := fun _ _ _ _ _ =>
  ⟨signedArithmetic_of_exec (decode_aluR rfl) rfl, signedArithmetic_of_exec (decode_aluR rfl) rfl,
    signedArithmetic_of_exec (decode_aluR rfl) rfl, signedArithmetic_of_exec (decode_aluI rfl) rfl,
    signedArithmetic_of_exec (decode_aluI rfl) rfl, signedArithmetic_of_exec (decode_aluI rfl) rfl⟩

/-- Settles O20: each instruction ends with the unsigned result of its operation, the immediate zero-extended. -/
theorem unsignedAddSubtractMultiply : Obligations.UnsignedAddSubtractMultiply := by
  intro s rd rs rt imm
  rw [← zeroImm_toNat imm]
  exact ⟨unsignedArithmetic_of_exec (decode_aluR rfl) rfl, unsignedArithmetic_of_exec (decode_aluR rfl) rfl,
    unsignedArithmetic_of_exec (decode_aluR rfl) rfl, unsignedArithmetic_of_exec (decode_aluI rfl) rfl,
    unsignedArithmetic_of_exec (decode_aluI rfl) rfl, unsignedArithmetic_of_exec (decode_aluI rfl) rfl⟩

/-! ## Division and remainder -/

/-- The word of an unsigned quotient is the floor of the quotient (spec/40_arithmetic.md R145). -/
theorem unsignedQuotient_floor (a b : Word) (hb : b.toNat ≠ 0) :
    (BitVec.ofNat 32 (a.toNat / b.toNat)).toNat * b.toNat ≤ a.toNat ∧
      a.toNat < ((BitVec.ofNat 32 (a.toNat / b.toNat)).toNat + 1) * b.toNat := by
  have fits : a.toNat / b.toNat < 2 ^ 32 := (Nat.div_le_self _ _).trans_lt a.isLt
  rw [BitVec.toNat_ofNat, Nat.mod_eq_of_lt fits]
  exact ⟨Nat.div_mul_le_self _ _, Nat.lt_mul_of_div_lt (Nat.lt_succ_self _) (Nat.pos_of_ne_zero hb)⟩

/-- The word of an unsigned remainder is what the floor of the quotient leaves (spec/40_arithmetic.md R149). -/
theorem unsignedRemainder_left (a b : Word) (hb : b.toNat ≠ 0) :
    (BitVec.ofNat 32 (a.toNat % b.toNat)).toNat < b.toNat ∧
      ∃ q : Nat, a.toNat = q * b.toNat + (BitVec.ofNat 32 (a.toNat % b.toNat)).toNat := by
  have fits : a.toNat % b.toNat < 2 ^ 32 := (Nat.mod_le _ _).trans_lt a.isLt
  rw [BitVec.toNat_ofNat, Nat.mod_eq_of_lt fits]
  exact ⟨Nat.mod_lt _ (Nat.pos_of_ne_zero hb), a.toNat / b.toNat, (Nat.div_add_mod' _ _).symm⟩

/-- Settles O21: each instruction divides by its second operand, the immediate zero-extended. -/
theorem unsignedDivideRemainder : Obligations.UnsignedDivideRemainder := by
  intro s rd rs rt imm
  rw [← zeroImm_toNat imm]
  exact ⟨⟨_, unsignedQuotient_floor _ _, divides_of_exec (decode_aluR rfl) rfl⟩,
    ⟨_, unsignedRemainder_left _ _, divides_of_exec (decode_aluR rfl) rfl⟩,
    ⟨_, unsignedQuotient_floor _ (zeroImm imm), divides_of_exec (decode_aluI rfl) rfl⟩,
    ⟨_, unsignedRemainder_left _ (zeroImm imm), divides_of_exec (decode_aluI rfl) rfl⟩⟩

/-- Where the spec fixes the signed quotient it is the floor of the quotient (spec/40_arithmetic.md R143, R155). -/
theorem sdiv_floor (a b : Word) (ha : 0 ≤ a.toInt) (hb : 0 < b.toInt) :
    (sdiv a b).toInt * b.toInt ≤ a.toInt ∧ a.toInt < ((sdiv a b).toInt + 1) * b.toInt := by
  have low : 0 ≤ a.toInt / b.toInt := Int.ediv_nonneg ha hb.le
  have high : a.toInt / b.toInt ≤ a.toInt := Int.ediv_le_self _ ha
  have a_lt := BitVec.toInt_lt (x := a)
  have exact_quotient : (sdiv a b).toInt = a.toInt / b.toInt := by
    rw [sdiv, if_pos ⟨ha, hb⟩]
    exact (signedResult_of_fits (by omega)).2
  rw [exact_quotient]
  exact ⟨Int.ediv_mul_le _ hb.ne', Int.lt_ediv_add_one_mul_self _ hb⟩

/-- Where the spec fixes the signed remainder it is what the floor of the quotient leaves (spec/40_arithmetic.md R147,
R155). -/
theorem srem_left (a b : Word) (ha : 0 ≤ a.toInt) (hb : 0 < b.toInt) :
    0 ≤ (srem a b).toInt ∧ (srem a b).toInt < b.toInt ∧ ∃ q : Int, a.toInt = q * b.toInt + (srem a b).toInt := by
  have low : 0 ≤ a.toInt % b.toInt := Int.emod_nonneg _ hb.ne'
  have high : a.toInt % b.toInt < b.toInt := Int.emod_lt_of_pos _ hb
  have b_lt := BitVec.toInt_lt (x := b)
  have exact_remainder : (srem a b).toInt = a.toInt % b.toInt := by
    rw [srem, if_pos ⟨ha, hb⟩]
    exact (signedResult_of_fits (by omega)).2
  rw [exact_remainder]
  exact ⟨low, high, a.toInt / b.toInt, (Int.ediv_mul_add_emod _ _).symm⟩

/-- Settles O22: each instruction divides by its second operand, the immediate sign-extended; the value is bound where the
spec fixes it. -/
theorem signedDivideRemainder : Obligations.SignedDivideRemainder := by
  intro s rd rs rt imm
  exact ⟨⟨_, sdiv_floor _ _, divides_of_exec (decode_aluR rfl) rfl⟩,
    ⟨_, srem_left _ _, divides_of_exec (decode_aluR rfl) rfl⟩,
    ⟨_, sdiv_floor _ (signImm imm), divides_of_exec (decode_aluI rfl) rfl⟩,
    ⟨_, srem_left _ (signImm imm), divides_of_exec (decode_aluI rfl) rfl⟩⟩

/-! ## Constants -/

/-- The halves of a constant, put together by an or. -/
theorem highImm_or_zeroImm (hi lo : BitVec 16) : (hi ++ 0#16) ||| zeroImm lo = hi ++ lo := by
  apply BitVec.eq_of_getLsbD_eq
  intro i _
  rw [BitVec.getLsbD_or, zeroImm_getLsbD, BitVec.getLsbD_append, BitVec.getLsbD_append]
  by_cases h : i < 16
  · simp [h]
  · simp [h, BitVec.getLsbD_of_ge lo i (by omega)]

/-- Settles O24: `lhi` retires the upper half, and `ori` puts the lower half in. -/
theorem loadHigh : Obligations.LoadHigh := by
  intro s rd hi lo
  obtain ⟨t, lhi, first⟩ := s.retire_completes rd (hi ++ 0#16)
  obtain ⟨u, ori, second⟩ := t.retire_completes rd (t.reg rd ||| zeroImm lo)
  refine ⟨⟨decode_encode_lhi rd hi, t, lhi, first⟩, t, u, lhi, ori, ?_,
    fun q hq => (second.others q hq).trans (first.others q hq), first.special.trans second.special,
    first.memory.trans second.memory, first.devices.trans second.devices⟩
  rw [second.result, first.result]
  split
  · rfl
  · exact highImm_or_zeroImm hi lo

/-! ## Jumps that link, and branches -/

/-- Settles O32: `jal` and `jalr` write `$ra` and jump; `jalr $ra` is refused. -/
theorem jumpAndLink : Obligations.JumpAndLink := fun s rs addr =>
  ⟨⟨decode_encode_jal addr, _, rfl, s.link_links addr⟩,
    fun hrs => ⟨decode_encode_jalr rs, _, if_neg hrs, s.link_links _⟩, rfl⟩

/-- The target of a taken branch as integer arithmetic modulo 2^20 (spec/43_branch.md R215, decision D3). -/
theorem branchTarget_toNat (pc : Addr) (offset : BitVec 20) :
    ((branchTarget pc offset).toNat : Int) = (pc.toNat + 1 + offset.toInt) % 2 ^ 20 := by
  rw [branchTarget, BitVec.toNat_add, BitVec.toNat_add, BitVec.toInt_eq_toNat_cond]
  split
  · simp
  · simp
    omega

/-- A branch jumps to its target or to the next instruction (spec/43_branch.md R215, R216). -/
theorem branchIf_eq_jump (taken : Bool) (offset : BitVec 20) (s : State) :
    branchIf taken offset s = .next (s.jump (if taken then branchTarget s.pc offset else s.pc + 1)) := by
  cases taken <;> rfl

/-- Settles O33: both branches look at the whole register. -/
theorem conditionalBranches : Obligations.ConditionalBranches := by
  intro s rs offset next
  refine ⟨branchTarget s.pc offset, branchTarget_toNat s.pc offset, ?_, ?_⟩
  · refine runs_of_exec_eq_jump (decode_encode_beqz rs offset) ((branchIf_eq_jump _ offset s).trans ?_)
    simp only [beq_iff_eq]
    rfl
  · refine runs_of_exec_eq_jump (decode_encode_bnez rs offset) ((branchIf_eq_jump _ offset s).trans ?_)
    simp only [bne_iff_ne, ne_eq, ite_not]
    rfl

end Sys2Proof.Machine

/-! PROOFS. The timer's counting and its prescaler (spec/60_exceptions.md R335, R336; spec/70_reset_and_hazards.md R372,
R374). -/

namespace Sys2Proof.Machine

/-! ## Ticks -/

/-- A tick of an enabled timer whose count is above 1 counts down (spec/60_exceptions.md R335 (b)). -/
theorem Timer.tick_counts {t : Timer} (enable : t.enable = true) (above : t.count - 1 ≠ 0) :
    t.tick = { t with count := t.count - 1 } := by
  simp only [Timer.tick, enable, if_true, if_neg above]

/-- A tick of an enabled timer whose count is 1 is the expiry (spec/60_exceptions.md R335 (c)). -/
theorem Timer.tick_expires {t : Timer} (enable : t.enable = true) (one : t.count - 1 = 0) :
    t.tick = Timer.expire { t with count := 0 } := by
  simp only [Timer.tick, enable, if_true, if_pos one]
  rw [one]

/-- An enabled timer with a count of `n + 1` counts down for `n` ticks. -/
theorem Timer.iterate_tick_counts {t : Timer} {n m : Nat} (enable : t.enable = true) (count : t.count.toNat = n + 1)
    (hm : m ≤ n) : Nat.iterate Timer.tick m t = { t with count := t.count - BitVec.ofNat 16 m } := by
  induction m with
  | zero => simp
  | succ m ih =>
    have count_lt := t.count.isLt
    have next : t.count - BitVec.ofNat 16 m - 1 = t.count - BitVec.ofNat 16 (m + 1) := by bv_omega
    have above : t.count - BitVec.ofNat 16 m - 1 ≠ 0 := by bv_omega
    rw [Function.iterate_succ_apply', ih (by omega),
      Timer.tick_counts (t := { t with count := t.count - BitVec.ofNat 16 m }) enable above]
    simp only [next]

/-- The tick after those is the expiry. -/
theorem Timer.iterate_tick_expires {t : Timer} {n : Nat} (enable : t.enable = true) (count : t.count.toNat = n + 1) :
    Nat.iterate Timer.tick (n + 1) t = Timer.expire { t with count := 0 } := by
  have count_lt := t.count.isLt
  have one : t.count - BitVec.ofNat 16 n - 1 = 0 := by bv_omega
  rw [Function.iterate_succ_apply', Timer.iterate_tick_counts enable count le_rfl,
    Timer.tick_expires (t := { t with count := t.count - BitVec.ofNat 16 n }) enable one]

/-- Settles O52: the count goes down to 1, and the next tick is the expiry, which restarts or disables the timer. -/
theorem timerExpires : Obligations.TimerExpires := by
  intro t n enable count
  have expires := Timer.iterate_tick_expires enable count
  refine ⟨fun m hm => Timer.iterate_tick_counts enable count hm, fun auto => ?_, fun single => ?_⟩
  · simp [expires, Timer.expire, auto, enable]
  · simp [expires, Timer.expire, single]

/-! ## Clock cycles -/

/-- Cycles follow one another. -/
theorem Timer.cycles_add (m n : Nat) (t : Timer) : Timer.cycles (m + n) t = Timer.cycles n (Timer.cycles m t) := by
  induction m generalizing t with
  | zero => rw [Nat.zero_add]; rfl
  | succ m ih => rw [Nat.succ_add]; exact ih t.cycle

/-- Until the prescaler is at 1 the cycles only count it down (spec/60_exceptions.md R336). -/
theorem Timer.cycles_count_prescaler {t : Timer} {n : Nat} (h : n < t.prescaler.toNat) :
    Timer.cycles n t = { t with prescaler := t.prescaler - BitVec.ofNat 11 n } := by
  induction n with
  | zero => simp [Timer.cycles]
  | succ n ih =>
    have prescaler_lt := t.prescaler.isLt
    have above : ¬(t.prescaler - BitVec.ofNat 11 n).toNat ≤ 1 := by bv_omega
    have next : t.prescaler - BitVec.ofNat 11 n - 1 = t.prescaler - BitVec.ofNat 11 (n + 1) := by bv_omega
    rw [Timer.cycles_add, ih (by omega)]
    simp only [Timer.cycles, Timer.cycle, if_neg above, next]

/-- A whole count of the prescaler inverts the signal; every second inversion is a tick (spec/60_exceptions.md R336). -/
theorem Timer.cycles_1302 {t : Timer} (h : t.prescaler = 1302) :
    Timer.cycles 1302 t =
      if t.signal then Timer.tick { t with signal := !t.signal } else { t with signal := !t.signal } := by
  have down : Timer.cycles 1301 t = { t with prescaler := 1 } := by
    rw [Timer.cycles_count_prescaler (by rw [h]; decide), h]
    rfl
  have same : ({ t with prescaler := prescalerStart, signal := !t.signal } : Timer) = { t with signal := !t.signal } := by
    rw [show prescalerStart = t.prescaler from h.symm]
  rw [show (1302 : Nat) = 1301 + 1 from rfl, Timer.cycles_add, down]
  simp only [Timer.cycles, Timer.cycle, if_pos (show (1 : BitVec 11).toNat ≤ 1 by decide), same]

/-- Every event but RESET leaves the timer alone or passes some cycles. -/
theorem State.apply_cycles (s : State) {e : DeviceEvent} (h : e ≠ .resetButton) :
    ∃ n, (s.apply e).timer = Timer.cycles n s.timer := by
  cases e with
  | resetButton => exact absurd rfl h
  | clock n => exact ⟨n, rfl⟩
  | serialReceive p c => cases p <;> exact ⟨0, rfl⟩
  | serialSent p => cases p <;> exact ⟨0, rfl⟩
  | serialErrors p e => cases p <;> exact ⟨0, rfl⟩
  | switches | buttons | userButton => exact ⟨0, rfl⟩

/-- At every boundary a cycle passes first (spec/70_reset_and_hazards.md R372). -/
theorem State.boundaryEvents_eq_clock_cons (s : State) : ∃ rest, s.boundaryEvents = .clock 1 :: rest := by
  unfold State.boundaryEvents
  split <;> exact ⟨_, rfl⟩

/-- Settles O53: two counts of the prescaler make a tick; and the events of a boundary are a cycle and what follows it. -/
theorem tickEvery2604Cycles : Obligations.TickEvery2604Cycles := by
  constructor
  · intro t start low
    have first : Timer.cycles 1302 t = { t with signal := true } := by
      rw [Timer.cycles_1302 start, low]
      rfl
    constructor
    · rw [show (2604 : Nat) = 1302 + 1302 from rfl, Timer.cycles_add, first,
        Timer.cycles_1302 (t := { t with signal := true }) start, if_pos rfl]
      have again : { t with signal := false } = t := by rw [← low]
      exact congrArg Timer.tick again
    · intro n hn
      have prescaler : t.prescaler.toNat = 1302 := by rw [start]; rfl
      by_cases h : n < 1302
      · exact ⟨_, t.signal, Timer.cycles_count_prescaler (prescaler ▸ h)⟩
      · have rest : n - 1302 < ({ t with signal := true } : Timer).prescaler.toNat := by
          change _ < t.prescaler.toNat
          omega
        rw [show n = 1302 + (n - 1302) by omega, Timer.cycles_add, first, Timer.cycles_count_prescaler rest]
        exact ⟨_, true, rfl⟩
  · intro s noReset
    obtain ⟨rest, events⟩ := s.boundaryEvents_eq_clock_cons
    rw [events] at noReset
    obtain ⟨n, hn⟩ := State.foldl_apply (P := fun u v => ∃ n, v.timer = Timer.cycles n u.timer) (fun _ => ⟨0, rfl⟩)
      (fun s t u ⟨m, hm⟩ ⟨n, hn⟩ => ⟨m + n, by rw [hn, hm, Timer.cycles_add]⟩)
      (fun e he u => u.apply_cycles fun reset => noReset (List.mem_cons_of_mem _ (reset ▸ he)))
      (State.apply { s with script := s.script.tail } (.clock 1))
    refine ⟨1 + n, by omega, ?_⟩
    rw [State.deliver, events, List.foldl_cons, hn, Timer.cycles_add]
    rfl

end Sys2Proof.Machine

/-! PROOFS. The device registers (spec/60_exceptions.md R310 to R340): `lw` and `sw` of each by what the bus does there. -/

namespace Sys2Proof.Machine

/-! ## Narrow registers -/

/-- A field of a narrow register, from the word stored to it. -/
theorem setWidth_getLsbD_fin {n : Nat} (v : Word) (i : Fin n) : (v.setWidth n).getLsbD i = v.getLsbD i := by
  rw [BitVec.getLsbD_setWidth, decide_eq_true i.isLt, Bool.true_and]

/-- A bit of a narrow register, from the word a load of it returns. -/
theorem loadNarrow_getLsbD {n : Nat} (v : BitVec n) (free : Word) {i : Nat} (hi : i < n) (hn : n ≤ 32) :
    (loadNarrow v free).getLsbD i = v.getLsbD i := by
  rw [← loadNarrow_low v free hn, BitVec.getLsbD_setWidth, decide_eq_true hi, Bool.true_and]
  rw [loadNarrow_low v free hn]

/-- A narrow register, from the word a load of it returns. -/
theorem loadNarrow_extract {n : Nat} (v : BitVec n) (free : Word) (hn : n ≤ 32) :
    (loadNarrow v free).extractLsb' 0 n = v := by
  rw [← BitVec.setWidth_eq_extractLsb' hn, loadNarrow_low v free hn]

/-! ## Loads and stores at an address -/

/-- No device is in RAM. -/
theorem not_ram_of_regionOf {a : Addr} {r : Region} (h : regionOf a = r) (hr : r ≠ .ram) : ¬a.toNat < 0x4000 :=
  fun ram => hr (h.symm.trans (regionOf_ram ram))

section

variable {s u : State} {rd rs : RegNum} {offset : BitVec 20} {a : Addr}

/-- A load of a device register whose read only draws free values. -/
theorem runs_lw_device {v : Word} (address : s.accessed rs offset = a) (access : s.mayAccess a)
    (read : s.busRead a = .done v s.drawn) :
    Runs (0x8#4 ++ rd ++ rs ++ offset) (.lw rd rs offset) s (Completes rd v) := by
  subst address
  exact runs_lw_of_busRead access read ⟨rfl, rfl, rfl, rfl, rfl, rfl⟩

/-- A store to a device register. -/
theorem runs_sw_device {r : Region} (address : s.accessed rs offset = a) (access : s.mayAccess a)
    (region : regionOf a = r) (device : r ≠ .ram) (write : s.busWrite a (s.reg rd) = .done () u) :
    Runs (0x9#4 ++ rd ++ rs ++ offset) (.sw rd rs offset) s (Stores u) :=
  runs_sw_of_busWrite (address ▸ access) (address ▸ write) (address ▸ not_ram_of_regionOf region device)

/-- A store to a device register that has no meaning. -/
theorem exec_sw_device_refused {e : Refusal} (address : s.accessed rs offset = a) (access : s.mayAccess a)
    (write : s.busWrite a (s.reg rd) = .refused e) : exec (.sw rd rs offset) s = .refused e :=
  execSw_refused (address ▸ access) (address ▸ write)

end

/-! ## The bus at a serial port -/

/-- The addresses of a serial port's registers (spec/60_exceptions.md R310). -/
theorem regionOf_serial (p : SerialPortId) :
    regionOf p.base = .serial p .transmit ∧ regionOf (p.base + 1) = .serial p .receive ∧
      regionOf (p.base + 2) = .serial p .control ∧ regionOf (p.base + 3) = .serial p .status ∧
      regionOf (p.base + 4) = .serial p .acknowledge := by
  cases p <;> decide

theorem State.busRead_serial {s : State} {a : Addr} {p : SerialPortId} {r : SerialReg} {v : Word} {port : SerialPort}
    (region : regionOf a = .serial p r) (load : (s.serial p).loadReg s.params.serial r s.free = .ok (v, port)) :
    s.busRead a = .done v (s.setSerial p port).drawn := by
  simp only [State.busRead, region, load]
  cases p <;> rfl

theorem State.busWrite_serial {s : State} {a : Addr} {p : SerialPortId} {r : SerialReg} {v : Word} {port : SerialPort}
    (region : regionOf a = .serial p r) (store : (s.serial p).storeReg s.params.serial r v s.free = .ok port) :
    s.busWrite a v = .done () (s.setSerial p port).drawn := by
  simp only [State.busWrite, region, store]
  cases p <;> rfl

theorem State.busWrite_serial_refused {s : State} {a : Addr} {p : SerialPortId} {r : SerialReg} {v : Word} {e : Refusal}
    (region : regionOf a = .serial p r) (store : (s.serial p).storeReg s.params.serial r v s.free = .error e) :
    s.busWrite a v = .refused e := by
  simp only [State.busWrite, region, store]

/-- A draw is no change of a device. -/
theorem Stores.of_drawn {u s t : State} (h : Stores u.drawn s t) : Stores u s t :=
  { h with devices := ⟨h.devices.serial1, h.devices.serial2, h.devices.parallel, h.devices.timer, h.devices.userPending,
      h.devices.script⟩ }

/-- A store to a serial register. -/
theorem runs_sw_serial {s : State} {rd rs : RegNum} {offset : BitVec 20} {a : Addr} {p : SerialPortId} {r : SerialReg}
    {port : SerialPort} (address : s.accessed rs offset = a) (access : s.mayAccess a) (region : regionOf a = .serial p r)
    (store : (s.serial p).storeReg s.params.serial r (s.reg rd) s.free = .ok port) :
    Runs (0x9#4 ++ rd ++ rs ++ offset) (.sw rd rs offset) s (Stores (s.setSerial p port)) := by
  obtain ⟨decoded, t, next, stores⟩ :=
    runs_sw_device address access region nofun (State.busWrite_serial region store)
  exact ⟨decoded, t, next, stores.of_drawn⟩

/-- What was put into a port is there. -/
@[simp] theorem State.setSerial_serial (s : State) (p : SerialPortId) (port : SerialPort) :
    (s.setSerial p port).serial p = port := by
  cases p <;> rfl

/-! ## Serial ports -/

/-- The port after it finishes a transmission (spec/60_exceptions.md R317 (b)). -/
theorem SerialPort.finish_busy {p : SerialPort} (l : SerialLayout) (busy : p.tds = false) :
    p.finish l = SerialPort.signalEvent { p with tds := true, sent := p.sent ++ [p.tdr] } l.txie 1 :=
  if_neg (by simp [busy])

/-- After a transmission is finished the transmit register is empty. -/
theorem SerialPort.finish_tds (p : SerialPort) (l : SerialLayout) : (p.finish l).tds = true := by
  cases busy : p.tds with
  | true => rw [SerialPort.finish, if_pos busy, busy]
  | false =>
    obtain ⟨pending, e, -⟩ := SerialPort.signalEvent_spec { p with tds := true, sent := p.sent ++ [p.tdr] } l.txie 1
    rw [SerialPort.finish_busy l busy, e]

/-- Where the script is used up, the boundary's events leave both transmit registers empty (spec/60_exceptions.md R317). -/
theorem State.deliver_tds {s : State} (p : SerialPortId) (used : s.script = []) : (s.deliver.serial p).tds = true := by
  have events : s.boundaryEvents = [.clock 1, .serialSent .first, .serialSent .second] := by
    rw [State.boundaryEvents, used]
  rw [State.deliver, events]
  cases p <;> exact SerialPort.finish_tds _ _

/-- Settles O55: a store fills the register, finishing empties it, and at a boundary with no script left both finish. -/
theorem serialTransmit : Obligations.SerialTransmit := by
  refine ⟨?_, fun s p busy => ?_, fun n s t p steps long => ?_⟩
  · intro s p rd rs offset q address access
    refine ⟨fun empty => runs_sw_serial address access (regionOf_serial p).1 ?_,
      fun full => exec_sw_device_refused address access (State.busWrite_serial_refused (regionOf_serial p).1 ?_)⟩
    · rw [SerialPort.storeReg, if_pos empty, BitVec.setWidth_eq_extractLsb' (by decide)]
    · exact if_neg (by simp [q, full])
  · obtain ⟨pending, e, -⟩ := SerialPort.signalEvent_spec
      { s.serial p with tds := true, sent := (s.serial p).sent ++ [(s.serial p).tdr] } s.params.serial.txie 1
    rw [State.apply, State.setSerial_serial, SerialPort.finish_busy _ busy, e]
    exact ⟨rfl, rfl⟩
  · exact State.deliver_tds p (by rw [steps.script, List.drop_eq_nil_of_le long])

/-- Settles O56: the load reads the register and clears Receive Data Ready; an arrival fills the one and sets the other. -/
theorem serialReceive : Obligations.SerialReceive := by
  intro s p rd rs offset q address access
  constructor
  · refine ⟨if q.ready then loadNarrow q.rdr s.free else s.free, fun ready => ?_, decode_encode_lw rd rs offset, ?_⟩
    · rw [if_pos ready, loadNarrow_extract _ _ (by decide)]
    · have read := State.busRead_serial (s := s) (regionOf_serial p).2.1 rfl
      rw [← address] at access read
      obtain ⟨t, retires, completes⟩ := State.drawn_retire_completes (s.setSerial p { q with ready := false }) rd _
      exact ⟨t, (execLw_done access read).trans retires, completes⟩
  · intro c
    obtain ⟨pending, e, -⟩ :=
      SerialPort.signalEvent_spec { q with rdr := c, ready := true } s.params.serial.rxie s.params.serial.iackRx
    rw [State.apply, State.setSerial_serial, SerialPort.arrive, e]
    exact ⟨rfl, rfl⟩

/-- An error may hold but where the environment reports that none does (spec/60_exceptions.md R314). -/
theorem SerialPort.errorMayHold_iff (p : SerialPort) : p.errorMayHold = true ↔ p.errors ≠ some 0 := by
  unfold SerialPort.errorMayHold
  split <;> simp [*]

/-- Settles O57: everything a store to the control register can do to the pending bits. -/
theorem serialControlStore : Obligations.SerialControlStore := by
  intro s p rd rs offset q l turnsOn isOpen address access
  obtain ⟨pending, stored, kept⟩ := q.storeControl_spec l ((s.reg rd).setWidth 11) s.free
  refine ⟨pending, fun i hi closed => ?_, ?_⟩
  · simp only [setWidth_getLsbD_fin, q.errorMayHold_iff] at kept
    exact kept i (fun ⟨hb, on, off, holds⟩ => closed (.inl ⟨hb, ⟨on, off⟩, holds⟩))
      (fun ⟨hb, on, off, holds⟩ => closed (.inr (.inl ⟨hb, ⟨on, off⟩, holds⟩)))
      (fun ⟨hb, on, off, holds⟩ => closed (.inr (.inr ⟨hb, ⟨on, off⟩, holds⟩)))
  · refine runs_sw_serial address access (regionOf_serial p).2.2.1 ?_
    rw [← BitVec.setWidth_eq_extractLsb' (by decide)]
    exact congrArg Except.ok stored

end Sys2Proof.Machine

/-! PROOFS. Stores to control and acknowledge registers, interrupt lines, and the parallel port (spec/60_exceptions.md R265,
R266, R315, R316, R320 to R335). -/

namespace Sys2Proof.Machine

/-! ## The timer -/

/-- A store to the timer's control register, from the word stored (spec/60_exceptions.md R335 (a), (d)). -/
theorem Timer.storeReg_control (t : Timer) (l : TimerLayout) (v : Word) :
    t.storeReg l .control v =
      if v.getLsbD l.enable && !t.enable then
        if t.load = 0 then .error .timerEnabledWithZeroLoad
        else .ok { t with enable := true, auto := v.getLsbD l.auto, count := t.load }
      else .ok { t with enable := v.getLsbD l.enable, auto := v.getLsbD l.auto } := by
  simp only [Timer.storeReg, Timer.storeControl, setWidth_getLsbD_fin]

/-- A store to a timer register that has no meaning. -/
theorem State.busWrite_timer_refused {s : State} {a : Addr} {r : TimerReg} {v : Word} {e : Refusal}
    (region : regionOf a = .timer r) (store : s.timer.storeReg s.params.timer r v = .error e) :
    s.busWrite a v = .refused e := by
  simp only [State.busWrite, region, store]

/-- Settles O51: the three cases of the store. -/
theorem timerControlStore : Obligations.TimerControlStore := by
  intro s rd rs offset enable auto address access
  have region : regionOf 0x72000 = .timer .control := by decide
  refine ⟨fun on off load => runs_sw_device address access region nofun (s.busWrite_timer region ?_),
    fun on off load => exec_sw_device_refused address access (State.busWrite_timer_refused region ?_),
    fun keeps => runs_sw_device address access region nofun (s.busWrite_timer region ?_)⟩
  · rw [Timer.storeReg_control, if_pos (by simp [enable, on, off]), if_neg load]
  · rw [Timer.storeReg_control, if_pos (by simp [enable, on, off]), if_pos load]
  · rw [Timer.storeReg_control, if_neg (by rcases keeps with h | h <;> simp [enable, h])]

/-- The two bits of the timer's acknowledge register are its two fields (spec/60_exceptions.md R334). -/
theorem TimerLayout.iack_cases (l : TimerLayout) {i : Nat} (hi : i < 2) : i = l.pending ∨ i = l.overrun := by
  have distinct : (l.pending : Nat) ≠ l.overrun := by simpa [Fin.ext_iff] using l.iackDistinct
  omega

/-- A store to the timer's acknowledge register that writes 1 over set bits only. -/
theorem Timer.storeReg_acknowledge {t : Timer} {l : TimerLayout} {v : Word}
    (pending : v.getLsbD l.pending = true → t.pending = true) (overrun : v.getLsbD l.overrun = true → t.overrun = true) :
    t.storeReg l .acknowledge v = .ok { t with pending := v.getLsbD l.pending, overrun := v.getLsbD l.overrun } := by
  obtain ⟨hp, ho⟩ := t.acknowledgeReg_getLsbD l
  have kept : acknowledge (t.acknowledgeReg l) (v.setWidth 2) = some (v.setWidth 2) := acknowledge_eq_some fun i hi => by
    rcases l.iack_cases hi with rfl | rfl
    · rwa [setWidth_getLsbD_fin, hp]
    · rwa [setWidth_getLsbD_fin, ho]
  simp only [Timer.storeReg, kept, setWidth_getLsbD_fin]

/-- A store to the timer's acknowledge register that writes 1 over a clear bit. -/
theorem Timer.storeReg_acknowledge_error {t : Timer} {l : TimerLayout} {v : Word}
    (h : v.getLsbD l.pending = true ∧ t.pending = false ∨ v.getLsbD l.overrun = true ∧ t.overrun = false) :
    t.storeReg l .acknowledge v = .error .acknowledgeOfClearBit := by
  obtain ⟨hp, ho⟩ := t.acknowledgeReg_getLsbD l
  have lost : acknowledge (t.acknowledgeReg l) (v.setWidth 2) = none := by
    rcases h with ⟨on, off⟩ | ⟨on, off⟩
    · exact acknowledge_eq_none l.pending.isLt ((setWidth_getLsbD_fin v _).trans on) (hp.trans off)
    · exact acknowledge_eq_none l.overrun.isLt ((setWidth_getLsbD_fin v _).trans on) (ho.trans off)
  simp only [Timer.storeReg, lost]

/-! ## The bus at the parallel port -/

theorem State.busRead_parallel (s : State) {a : Addr} {r : ParallelReg} (region : regionOf a = .parallel r) :
    s.busRead a = .done (s.parallel.loadReg s.params.parallel r s.free) s.drawn := by
  rw [State.busRead, region]

theorem State.busWrite_parallel (s : State) {a : Addr} {r : ParallelReg} {v : Word} {p : ParallelPort}
    (region : regionOf a = .parallel r) (store : s.parallel.storeReg s.params.parallel r v = .ok p) :
    s.busWrite a v = .done () { s with parallel := p } := by
  simp only [State.busWrite, region, store]

theorem State.busWrite_parallel_refused {s : State} {a : Addr} {r : ParallelReg} {v : Word} {e : Refusal}
    (region : regionOf a = .parallel r) (store : s.parallel.storeReg s.params.parallel r v = .error e) :
    s.busWrite a v = .refused e := by
  simp only [State.busWrite, region, store]

/-! ## Acknowledge registers -/

/-- A store to a serial acknowledge register that writes 1 over set bits only (spec/60_exceptions.md R315). -/
theorem SerialPort.storeReg_acknowledge {p : SerialPort} (l : SerialLayout) {v : Word} (free : Word)
    (h : ∀ i, i < 3 → v.getLsbD i = true → p.pending.getLsbD i = true) :
    p.storeReg l .acknowledge v free = .ok { p with pending := v.extractLsb' 0 3 } := by
  have kept : acknowledge p.pending (v.setWidth 3) = some (v.setWidth 3) := acknowledge_eq_some fun i hi => by
    rw [setWidth_getLsbD_fin v (⟨i, hi⟩ : Fin 3)]
    exact h i hi
  simp only [SerialPort.storeReg, kept]
  rw [BitVec.setWidth_eq_extractLsb' (by decide)]

/-- A store to a serial acknowledge register that writes 1 over a clear bit. -/
theorem SerialPort.storeReg_acknowledge_error {p : SerialPort} (l : SerialLayout) {v : Word} (free : Word)
    (h : ∃ i, i < 3 ∧ v.getLsbD i = true ∧ p.pending.getLsbD i = false) :
    p.storeReg l .acknowledge v free = .error .acknowledgeOfClearBit := by
  obtain ⟨i, hi, on, off⟩ := h
  have lost : acknowledge p.pending (v.setWidth 3) = none :=
    acknowledge_eq_none hi ((setWidth_getLsbD_fin v (⟨i, hi⟩ : Fin 3)).trans on) off
  simp only [SerialPort.storeReg, lost]

/-- A store of one bit to the parallel acknowledge register: kept where it was set (spec/60_exceptions.md R326). -/
theorem acknowledge_ofBool (old new : Bool) :
    acknowledge (BitVec.ofBool old) (BitVec.ofBool new) = if new && !old then none else some (BitVec.ofBool new) := by
  cases old <;> cases new <;> decide

/-- A store to the parallel acknowledge register (spec/60_exceptions.md R326). -/
theorem ParallelPort.storeReg_acknowledge (p : ParallelPort) (l : ParallelLayout) (v : Word) :
    p.storeReg l .acknowledge v =
      if v.getLsbD l.iack && !p.pending then .error .acknowledgeOfClearBit
      else .ok { p with pending := v.getLsbD l.iack } := by
  simp only [ParallelPort.storeReg, acknowledge_ofBool]
  by_cases clear : (v.getLsbD l.iack && !p.pending) = true
  · simp only [if_pos clear]
  · simp only [if_neg clear, BitVec.getLsbD_ofBool, decide_true, Bool.true_and]

/-- Settles O54: each acknowledge register, where the store has a meaning and where it has none. -/
theorem acknowledgeStores : Obligations.AcknowledgeStores := by
  intro s rd rs offset v a w changed pending overrun access
  have parallel : regionOf 0x73005 = .parallel .acknowledge := by decide
  have timer : regionOf 0x72003 = .timer .acknowledge := by decide
  have user : regionOf 0x7F000 = .userAcknowledge := by decide
  refine ⟨fun p address => ?_, fun address => ?_, fun address => ?_, fun address zero => ?_⟩
  all_goals rw [address] at access
  · obtain ⟨-, -, -, -, region⟩ := regionOf_serial p
    exact ⟨fun set => runs_sw_serial address access region (SerialPort.storeReg_acknowledge _ _ set),
      fun clear => exec_sw_device_refused address access
        (State.busWrite_serial_refused region (SerialPort.storeReg_acknowledge_error _ _ clear))⟩
  · refine ⟨fun set => runs_sw_device address access parallel nofun (s.busWrite_parallel parallel ?_),
      fun on off => exec_sw_device_refused address access (State.busWrite_parallel_refused parallel ?_)⟩
    · rw [ParallelPort.storeReg_acknowledge, if_neg (by simpa [changed] using set)]
    · rw [ParallelPort.storeReg_acknowledge, if_pos (by simp [changed, v] at on; simp [on, off])]
  · exact ⟨fun p o => runs_sw_device address access timer nofun
        (s.busWrite_timer timer (Timer.storeReg_acknowledge p o)),
      fun clear => exec_sw_device_refused address access
        (State.busWrite_timer_refused timer (Timer.storeReg_acknowledge_error clear))⟩
  · exact runs_sw_device address access user nofun (by rw [State.busWrite, user]; exact if_pos zero)

/-! ## Interrupt lines -/

/-- The bits of the levels, from the lowest on (spec/60_exceptions.md R265). -/
theorem levels_getLsbD (b5 b4 b3 b2 b1 : Bool) :
    let v : BitVec 8 := 0#2 ++ BitVec.ofBool b5 ++ BitVec.ofBool b4 ++ BitVec.ofBool b3 ++ BitVec.ofBool b2 ++
      BitVec.ofBool b1 ++ 0#1
    v.getLsbD 0 = false ∧ v.getLsbD 1 = b1 ∧ v.getLsbD 2 = b2 ∧ v.getLsbD 3 = b3 ∧ v.getLsbD 4 = b4 ∧ v.getLsbD 5 = b5 ∧
      v.getLsbD 6 = false ∧ v.getLsbD 7 = false := by
  revert b5 b4 b3 b2 b1
  decide

/-- The line of a serial port is asserted where a pending bit is 1 (spec/60_exceptions.md R316). -/
theorem SerialPort.line_eq (p : SerialPort) : p.line = decide (p.pending ≠ 0) :=
  Bool.eq_iff_iff.2 (by simp [SerialPort.line])

/-- Settles O58: each line is one bit of the levels; and the events of a serial port by what one does to the pending
bits. -/
theorem interruptLines : Obligations.InterruptLines := by
  intro s q c e i l sets
  obtain ⟨irq0, irq1, irq2, irq3, irq4, irq5, irq6, irq7⟩ := levels_getLsbD s.serial2.line s.serial1.line
    s.parallel.pending s.timer.pending s.userPending
  refine ⟨irq0, irq1, irq2, irq3, irq4.trans s.serial1.line_eq, irq5.trans s.serial2.line_eq, irq6, irq7, fun _ => ?_,
    fun busy _ => ?_, fun error _ => ?_, rfl⟩
  · obtain ⟨pending, e, bits⟩ := SerialPort.signalEvent_spec { q with rdr := c, ready := true } l.rxie l.iackRx
    rw [SerialPort.arrive, e]
    exact bits i
  · obtain ⟨pending, e, bits⟩ :=
      SerialPort.signalEvent_spec { q with tds := true, sent := q.sent ++ [q.tdr] } l.txie 1
    rw [SerialPort.finish_busy l busy, e]
    exact bits i
  · obtain ⟨pending, e', bits⟩ := SerialPort.signalEvent_spec { q with errors := some e } l.errie l.iackErr
    have reported : q.report l (some e) = SerialPort.signalEvent { q with errors := some e } l.errie l.iackErr :=
      if_pos (by simpa using error)
    rw [reported, e']
    exact bits i

/-! ## The parallel port -/

/-- A store to a register of the parallel port at one of its addresses, and a load right after it. -/
theorem parallel_keeps {s : State} {rd rs : RegNum} {offset : BitVec 20} {reg : ParallelReg} {port : ParallelPort}
    {places : List Addr} {n : Nat} (access : s.mayAccess (s.accessed rs offset))
    (regions : (places.all fun b => decide (regionOf b = .parallel reg)) = true)
    (store : s.parallel.storeReg s.params.parallel reg (s.reg rd) = .ok port)
    (load : ∀ free, port.loadReg s.params.parallel reg free = loadNarrow ((s.reg rd).extractLsb' 0 n) free)
    (narrow : n ≤ 32)
    (place : s.accessed rs offset ∈ places) :
    Runs (0x9#4 ++ rd ++ rs ++ offset) (.sw rd rs offset) s fun s t =>
      Stores { s with parallel := port } s t ∧
      ∀ (rd' rs' : RegNum) (offset' : BitVec 20),
        t.accessed rs' offset' ∈ places → t.mayAccess (t.accessed rs' offset') →
        ∃ x : Word, x.extractLsb' 0 n = (s.reg rd).extractLsb' 0 n ∧
          Runs (0x8#4 ++ rd' ++ rs' ++ offset') (.lw rd' rs' offset') t (Completes rd' x) := by
  simp only [List.all_eq_true, decide_eq_true_eq] at regions
  obtain ⟨decoded, t, next, stores⟩ :=
    runs_sw_device rfl access (regions _ place) nofun (s.busWrite_parallel (regions _ place) store)
  refine ⟨decoded, t, next, stores, fun rd' rs' offset' place' access' => ?_⟩
  refine ⟨_, ?_, runs_lw_device rfl access' (t.busRead_parallel (regions _ place'))⟩
  rw [stores.devices.parallel, stores.special.params, load, loadNarrow_extract _ _ narrow]

/-- A change of an input makes the interrupt pend where it is enabled (spec/60_exceptions.md R328). -/
theorem ParallelPort.signalChange_eq (p : ParallelPort) (l : ParallelLayout) :
    p.signalChange l = { p with pending := p.pending || p.control.getLsbD l.ie } := by
  unfold ParallelPort.signalChange
  split <;> simp [*]

/-- The switches after they move (spec/60_exceptions.md R328). -/
theorem ParallelPort.moveSwitches_eq (p : ParallelPort) (l : ParallelLayout) (x : BitVec 16) :
    p.moveSwitches l x =
      { p with switches := x, pending := p.pending || (decide (x ≠ p.switches) && p.control.getLsbD l.ie) } := by
  unfold ParallelPort.moveSwitches
  split
  · next same => simp [same]
  · next moved => simp [ParallelPort.signalChange_eq, moved]

/-- The buttons after they are pressed or released (spec/60_exceptions.md R328). -/
theorem ParallelPort.moveButtons_eq (p : ParallelPort) (l : ParallelLayout) (x : BitVec 3) :
    p.moveButtons l x =
      { p with buttons := x, pending := p.pending || (decide (x ≠ p.buttons) && p.control.getLsbD l.ie) } := by
  unfold ParallelPort.moveButtons
  split
  · next same => simp [same]
  · next moved => simp [ParallelPort.signalChange_eq, moved]

/-- Settles O59: the registers, the displays and the changes. -/
theorem parallelPortRegisters : Obligations.ParallelPortRegisters := by
  refine ⟨?_, fun p l x => ⟨fun hex => ?_, fun plain => ⟨l.lit x, ?_, l.lit_getLsbD x⟩⟩,
    fun s => ⟨fun x => ?_, fun x => ?_⟩⟩
  · intro s rd rs offset v a keeps access
    have low : ∀ {n : Nat}, n ≤ 32 → (s.reg rd).setWidth n = (s.reg rd).extractLsb' 0 n :=
      BitVec.setWidth_eq_extractLsb'
    exact ⟨parallel_keeps (reg := .lowerLeft) access (by decide)
        (by rw [ParallelPort.storeReg, low (by decide)]) (fun _ => rfl) (by decide),
      parallel_keeps (reg := .lowerRight) access (by decide)
        (by rw [ParallelPort.storeReg, low (by decide)]) (fun _ => rfl) (by decide),
      parallel_keeps (reg := .upperLeft) access (by decide)
        (by rw [ParallelPort.storeReg, low (by decide)]) (fun _ => rfl) (by decide),
      parallel_keeps (reg := .upperRight) access (by decide)
        (by rw [ParallelPort.storeReg, low (by decide)]) (fun _ => rfl) (by decide),
      parallel_keeps (reg := .control) access (by decide)
        (by rw [ParallelPort.storeReg, low (by decide)]) (fun _ => rfl) (by decide),
      parallel_keeps (reg := .leds) access (by decide)
        (by rw [ParallelPort.storeReg, low (by decide)]) (fun _ => rfl) (by decide)⟩
  · rw [ParallelPort.shows, if_pos hex, BitVec.setWidth_eq_extractLsb' (by decide)]
  · exact if_neg (by simp [plain])
  · rw [State.apply, ParallelPort.moveSwitches_eq]
  · rw [State.apply, ParallelPort.moveButtons_eq]

/-! ## Loads -/

/-- A load of a narrow register gives the register in its low bits (spec/20_memory.md R66). -/
theorem lw_gives_narrow {s : State} {rd rs : RegNum} {offset : BitVec 20} {a : Addr} {n : Nat} {reg : BitVec n}
    (access : s.mayAccess (s.accessed rs offset)) (address : s.accessed rs offset = a)
    (read : s.busRead a = .done (loadNarrow reg s.free) s.drawn) (narrow : n ≤ 32) :
    ∃ v : Word, v.extractLsb' 0 n = reg ∧ Runs (0x8#4 ++ rd ++ rs ++ offset) (.lw rd rs offset) s (Completes rd v) :=
  ⟨_, loadNarrow_extract reg s.free narrow, runs_lw_device address (address ▸ access) read⟩

/-- A read of a serial register but the receive register changes no port. -/
theorem State.busRead_serial_same {s : State} {a : Addr} {p : SerialPortId} {r : SerialReg} {v : Word}
    (region : regionOf a = .serial p r) (load : (s.serial p).loadReg s.params.serial r s.free = .ok (v, s.serial p)) :
    s.busRead a = .done v s.drawn := by
  have same : s.setSerial p (s.serial p) = s := by cases p <;> rfl
  rw [State.busRead_serial region load, same]

/-- Settles O60: each register by the read of the bus at its address. -/
theorem deviceRegisterLoads : Obligations.DeviceRegisterLoads := by
  intro s rd rs offset a gives m t access
  have timer : ∀ {b : Addr} (r : TimerReg), a = b → regionOf b = .timer r →
      Runs (0x8#4 ++ rd ++ rs ++ offset) (.lw rd rs offset) s (Completes rd (s.timer.loadReg t r s.free)) :=
    fun r address region => runs_lw_device address (address ▸ access) (s.busRead_timer region)
  have parallel : ∀ {b : Addr} {n : Nat} {reg : BitVec n} (r : ParallelReg), regionOf b = .parallel r → n ≤ 32 →
      s.parallel.loadReg s.params.parallel r s.free = loadNarrow reg s.free →
      a = b → gives fun v => v.extractLsb' 0 n = reg :=
    fun r region narrow load address =>
      lw_gives_narrow access address (load ▸ s.busRead_parallel region) narrow
  refine ⟨fun address => ⟨_, ?_, timer .control address (by decide)⟩,
    fun address => ⟨_, ?_, timer .load address (by decide)⟩,
    fun address => ⟨_, ?_, timer .count address (by decide)⟩,
    fun address => ⟨_, ?_, timer .acknowledge address (by decide)⟩,
    parallel .switches (by decide) (by decide) rfl, parallel .buttons (by decide) (by decide) rfl,
    fun address => address.elim (parallel .lowerLeft (by decide) (by decide) rfl)
      (parallel .lowerLeft (by decide) (by decide) rfl),
    fun address => address.elim (parallel .lowerRight (by decide) (by decide) rfl)
      (parallel .lowerRight (by decide) (by decide) rfl),
    parallel .control (by decide) (by decide) rfl,
    fun address => ⟨_, ?_, runs_lw_device address (address ▸ access)
      (s.busRead_parallel (r := .acknowledge) (by decide))⟩,
    parallel .upperLeft (by decide) (by decide) rfl, parallel .upperRight (by decide) (by decide) rfl,
    parallel .leds (by decide) (by decide) rfl, fun p => ?_⟩
  · obtain ⟨enable, auto⟩ := s.timer.controlReg_getLsbD t
    rw [Timer.loadReg, loadNarrow_getLsbD _ _ t.enable.isLt (by decide),
      loadNarrow_getLsbD _ _ t.auto.isLt (by decide)]
    exact ⟨enable, auto⟩
  · exact s.timer.loadReg_load_low t s.free
  · exact loadNarrow_extract s.timer.count s.free (by decide)
  · obtain ⟨pending, overrun⟩ := s.timer.acknowledgeReg_getLsbD t
    rw [Timer.loadReg, loadNarrow_getLsbD _ _ t.pending.isLt (by decide),
      loadNarrow_getLsbD _ _ t.overrun.isLt (by decide)]
    exact ⟨pending, overrun⟩
  · exact (setFlag_flag _ _ _ _).trans (if_pos rfl)
  · intro q
    obtain ⟨-, -, control, status, acknowledge⟩ := regionOf_serial p
    refine ⟨fun address => lw_gives_narrow access address (State.busRead_serial_same control rfl) (by decide),
      fun address => ⟨_, ?_, runs_lw_device address (address ▸ access) (State.busRead_serial_same status rfl)⟩,
      fun address => lw_gives_narrow access address (State.busRead_serial_same acknowledge rfl) (by decide)⟩
    obtain ⟨ready, sent, errors⟩ := q.status_getLsbD m s.free
    have bit : ∀ {i : Nat}, i < 5 → (loadNarrow (q.status m s.free) s.free).getLsbD i = (q.status m s.free).getLsbD i :=
      fun hi => loadNarrow_getLsbD _ _ hi (by decide)
    refine ⟨(bit (by decide)).trans ready, (bit (by decide)).trans sent, fun e he => ?_⟩
    obtain ⟨overrun, parity, frame⟩ := errors e he
    exact ⟨(bit m.overrun.isLt).trans overrun, (bit m.parity.isLt).trans parity, (bit m.frame.isLt).trans frame⟩

end Sys2Proof.Machine
